-- ==== Sys2Proof/Word.lean ====
section
/-! DEFINITION. The word types of L1SD: a 16-bit uop or host command word, a subband index, and a
32-bit binary32 pattern (spec/00_scope.md R7, R8; spec/20_memory.md R64). -/

namespace Sys2Proof

/-- A uop word or a host command word (30_encoding.md R86, R89). Bit 0 is the least significant bit
(00_scope.md R8). -/
abbrev Word := BitVec 16

/-- A subband number 0..31, the index of the subband register file (10_state.md R26). -/
abbrev SbIdx := BitVec 5

/-- The 32-bit pattern of an IEEE 754 binary32 value: bit 31 the sign, bits 30..23 the biased
exponent, bits 22..0 the fraction (20_memory.md R64). `+0.0` and `-0.0` are different patterns
(00_scope.md R9). -/
abbrev F32 := BitVec 32

end Sys2Proof
end

