-- ==== Sys2Proof/Syntax.lean ====
section
/-! DEFINITION. The operations of L1SD: one constructor per row of spec/opcode_table.json
(spec/30_encoding.md R88). -/

namespace Sys2Proof

/-- The variant tag of a subband entry and of a uop (10_state.md R27). The code 3 is reserved and no
entry ever stores it. -/
inductive Variant where
  | mono | st | is
deriving DecidableEq, Repr

/-- The two synthesis filters, on ports FA and FB (20_memory.md R55). -/
inductive Filter where
  | a | b
deriving DecidableEq, Repr

/-- The uops (OPC 1 to 7) and the host commands (OPC 8 and 9). A uop's operand is the subband index
`[4:0]`; its variant `[11:10]` is in the constructor's name, as it is in the table's mnemonic.
CFG's operands are CRC `[2]` and SEL `[1:0]` as the word holds them (30_encoding.md R87, R92), so a
CFG term can carry the illegal SEL = 3, which `WellFormed` refuses. -/
inductive Instr where
  | createSbMono (sb : SbIdx)
  | createSbSt (sb : SbIdx)
  | createSbIs (sb : SbIdx)
  | allocMono (sb : SbIdx)
  | allocSt (sb : SbIdx)
  | allocIs (sb : SbIdx)
  | scfsiMono (sb : SbIdx)
  | scfsiSt (sb : SbIdx)
  | scfsiIs (sb : SbIdx)
  | scfMono (sb : SbIdx)
  | scfSt (sb : SbIdx)
  | scfIs (sb : SbIdx)
  | sampleMono (sb : SbIdx)
  | sampleSt (sb : SbIdx)
  | sampleIs (sb : SbIdx)
  | putMono (sb : SbIdx)
  | putSt (sb : SbIdx)
  | putIs (sb : SbIdx)
  | synthA
  | synthB
  | cfg (crc : Bool) (sel : BitVec 2)
  | decode
deriving DecidableEq, Repr

/-- The two ports an operation can arrive on (30_encoding.md R88, column "port"). -/
inductive IssuePort where
  | uopBus | cmd
deriving DecidableEq, Repr

end Sys2Proof
end

