-- ==== Sys2Proof/WellFormed.lean ====
section
/-! DEFINITION. Which terms of `Instr` are instructions (spec/30_encoding.md R90, R91), and on which
port each is legal (R88). -/

namespace Sys2Proof

/-- The operation is one the table has. The fields of a uop cannot be out of range: the index is 5
bits wide and the variant is in the constructor. CFG's SEL may not be 3 (30_encoding.md R91, R92). -/
def Instr.wellFormed : Instr → Bool
  | .cfg _ sel => sel != 3#2
  | _ => true

/-- The port on which the operation is legal (30_encoding.md R88): OPC 1 to 7 on the uop bus, OPC 8
and 9 on CMD. -/
def Instr.port : Instr → IssuePort
  | .cfg _ _ => .cmd
  | .decode => .cmd
  | _ => .uopBus

end Sys2Proof
end

