-- ==== Sys2Proof/Decode.lean ====
section
/-! DEFINITION. The decoder and the encoder of L1SD's 16-bit words (spec/30_encoding.md R86 to R91).
The decoder is total: a word it answers `none` on is illegal, and the machine takes ILLEGAL_UOP or
ILLEGAL_CMD with it. -/

namespace Sys2Proof

/-- OPC, bits `[15:12]` (R86, R89). -/
def opcOf (w : Word) : BitVec 4 := w.extractLsb' 12 4

/-- VAR, bits `[11:10]` of a uop word (R86). -/
def varOf (w : Word) : BitVec 2 := w.extractLsb' 10 2

/-- Z, bits `[9:5]` of a uop word, reserved, must be 0 (R86). -/
def zOf (w : Word) : BitVec 5 := w.extractLsb' 5 5

/-- SB, bits `[4:0]` of a uop word (R86, R87). -/
def sbOf (w : Word) : SbIdx := w.extractLsb' 0 5

/-- The reserved bits `[11:3]` of a host command word, must be 0 (R89). -/
def reservedOf (w : Word) : BitVec 9 := w.extractLsb' 3 9

/-- CRC, bit `[2]` of a CFG word (R87, R92). -/
def crcOf (w : Word) : Bool := w.getLsbD 2

/-- SEL, bits `[1:0]` of a CFG word (R87, R92). -/
def selOf (w : Word) : BitVec 2 := w.extractLsb' 0 2

/-- The operation that OPC and VAR name, for OPC 1 to 6, by the opcode map of R88. VAR = 3 names
none (R90). -/
def uopOf (opc var : Nat) (sb : SbIdx) : Option Instr :=
  match opc, var with
  | 1, 0 => some (.createSbMono sb)
  | 1, 1 => some (.createSbSt sb)
  | 1, 2 => some (.createSbIs sb)
  | 2, 0 => some (.allocMono sb)
  | 2, 1 => some (.allocSt sb)
  | 2, 2 => some (.allocIs sb)
  | 3, 0 => some (.scfsiMono sb)
  | 3, 1 => some (.scfsiSt sb)
  | 3, 2 => some (.scfsiIs sb)
  | 4, 0 => some (.scfMono sb)
  | 4, 1 => some (.scfSt sb)
  | 4, 2 => some (.scfIs sb)
  | 5, 0 => some (.sampleMono sb)
  | 5, 1 => some (.sampleSt sb)
  | 5, 2 => some (.sampleIs sb)
  | 6, 0 => some (.putMono sb)
  | 6, 1 => some (.putSt sb)
  | 6, 2 => some (.putIs sb)
  | _, _ => none

/-- The two SYNTH words: bit 0 selects the filter, bits `[4:1]` must be 0 (R86, R90). -/
def synthOf (sb : SbIdx) : Option Instr :=
  if sb = 0#5 then some .synthA
  else if sb = 1#5 then some .synthB
  else none

/-- The decode verdict on the uop bus (R90): the reserved bits are 0, OPC is 1 to 7, VAR is not 3,
and for OPC 7 VAR is 0 and `[4:1]` is 0. -/
def decodeUop (w : Word) : Option Instr :=
  if zOf w ≠ 0#5 then none
  else if opcOf w = 7#4 then
    if varOf w = 0#2 then synthOf (sbOf w) else none
  else uopOf (opcOf w).toNat (varOf w).toNat (sbOf w)

/-- The decode verdict on the CMD port (R91): OPC 8 with `[11:3]` zero and SEL not 3, or the one
word of DECODE. -/
def decodeCmd (w : Word) : Option Instr :=
  if reservedOf w ≠ 0#9 then none
  else if opcOf w = 8#4 then
    if selOf w = 3#2 then none else some (.cfg (crcOf w) (selOf w))
  else if opcOf w = 9#4 then
    if w = 0x9000#16 then some .decode else none
  else none

/-- The operation a word stands for on the port it is legal on; no word is legal on both (R88). -/
def decodeWord (w : Word) : Option Instr :=
  match decodeUop w with
  | some i => some i
  | none => decodeCmd w

/-- A uop word from its fields (R86): OPC `[15:12]`, VAR `[11:10]`, five zero bits, SB `[4:0]`. -/
def uopWord (opc : BitVec 4) (var : BitVec 2) (sb : SbIdx) : Word :=
  opc ++ var ++ (0#5 : BitVec 5) ++ sb

/-- A host command word from its fields (R89, R92): OPC `[15:12]`, nine zero bits, CRC `[2]`, SEL
`[1:0]`. -/
def cmdWord (opc : BitVec 4) (crc : Bool) (sel : BitVec 2) : Word :=
  opc ++ (0#9 : BitVec 9) ++ BitVec.ofBool crc ++ sel

/-- The word of an operation, by the bit patterns of R88. -/
def encode : Instr → Word
  | .createSbMono sb => uopWord 1#4 0#2 sb
  | .createSbSt sb => uopWord 1#4 1#2 sb
  | .createSbIs sb => uopWord 1#4 2#2 sb
  | .allocMono sb => uopWord 2#4 0#2 sb
  | .allocSt sb => uopWord 2#4 1#2 sb
  | .allocIs sb => uopWord 2#4 2#2 sb
  | .scfsiMono sb => uopWord 3#4 0#2 sb
  | .scfsiSt sb => uopWord 3#4 1#2 sb
  | .scfsiIs sb => uopWord 3#4 2#2 sb
  | .scfMono sb => uopWord 4#4 0#2 sb
  | .scfSt sb => uopWord 4#4 1#2 sb
  | .scfIs sb => uopWord 4#4 2#2 sb
  | .sampleMono sb => uopWord 5#4 0#2 sb
  | .sampleSt sb => uopWord 5#4 1#2 sb
  | .sampleIs sb => uopWord 5#4 2#2 sb
  | .putMono sb => uopWord 6#4 0#2 sb
  | .putSt sb => uopWord 6#4 1#2 sb
  | .putIs sb => uopWord 6#4 2#2 sb
  | .synthA => uopWord 7#4 0#2 0#5
  | .synthB => uopWord 7#4 0#2 1#5
  | .cfg crc sel => cmdWord 8#4 crc sel
  | .decode => cmdWord 9#4 false 0#2

/-- The decoder on an instruction given as `nbits` bits of the number `w`, numbered as
spec/opcode_table.json numbers them. Every instruction is one 16-bit word, so the bits above `nbits`
are 0 and bits 16 and up belong to no instruction. -/
def decodeTableWord (nbits w : Nat) : Option Instr :=
  decodeWord (BitVec.ofNat 16 (w % 2 ^ nbits))

end Sys2Proof
end

