-- ==== Sys2Proof/Config.lean ====
section
/-! DEFINITION. What an implementation of L1SD fixes (the OPEN parameters of spec/00_scope.md R7) and
the free values: what the spec leaves open and the model constrains by nothing. The free values are
opaque constants, so that no proof can see what they are. -/

namespace Sys2Proof

/-- OFFSET_VARIANT (00_scope.md R7, 20_memory.md R51): which of the two evaluations of the offsets
OFFSET_ROM holds. -/
inductive OffsetVariant where
  | stepwise | exact
deriving DecidableEq, Repr

/-- GUARD_MODE (00_scope.md R7, 43_frame_sequencer.md R168). -/
inductive GuardMode where
  | permissive | strict
deriving DecidableEq, Repr

/-- The two OPEN parameters of 00_scope.md R7. A machine carries them unchanged (log 4). -/
structure Params where
  offsetVariant : OffsetVariant
  guardMode : GuardMode
deriving DecidableEq, Repr

/-- The spec's defaults (00_scope.md R7). -/
def Params.default : Params := { offsetVariant := .stepwise, guardMode := .permissive }

/-- FREE VALUE (DESIGN CHOICE, log 2): a 32-bit field of a subband entry after a uop's fault, by the
fault's stamp, the entry's index and the field's number (60_exceptions.md R204). -/
opaque Config.freeField : (stamp entry field : Nat) → BitVec 32

/-- FREE VALUE (DESIGN CHOICE, log 3): the bit reader's cursor after EXHAUSTED or after an abandoned
GetBits (20_memory.md R56; 70_reset_and_hazards.md R240, R242). -/
opaque Config.freeCursor : (stamp : Nat) → Nat

/-- FREE VALUE (DEDUCED, log 12): the sign and payload of the NaN that a product gives. IEEE 754 does
not fix them, and no frame forms a NaN (42_dequant_routing.md R148). -/
opaque Config.freeNanMul : F32 → F32 → BitVec 32

/-- FREE VALUE (DEDUCED, log 12): the sign and payload of the NaN that a sum gives. -/
opaque Config.freeNanAdd : F32 → F32 → BitVec 32

end Sys2Proof
end

