-- ==== Sys2Proof/Machine/Binary32.lean ====
section
/-! DEFINITION. IEEE 754 binary32 products and sums, rounded once to nearest, ties to even
(spec/00_scope.md R9). A finite value is kept as a sign, a natural significand `m` and an exponent
offset, so that everything is exact until the one rounding. -/

namespace Sys2Proof.Machine

/-- The sign bit (20_memory.md R64). -/
def signOf (x : F32) : Bool := x.getLsbD 31

/-- The biased exponent, bits `[30:23]`. -/
def expOf (x : F32) : Nat := (x.extractLsb' 23 8).toNat

/-- The fraction, bits `[22:0]`. -/
def fracOf (x : F32) : Nat := (x.extractLsb' 0 23).toNat

/-- The pattern is a NaN. -/
def isNaN (x : F32) : Bool := expOf x == 255 && fracOf x != 0

/-- The pattern is an infinity. -/
def isInf (x : F32) : Bool := expOf x == 255 && fracOf x == 0

/-- The pattern is `+0.0` or `-0.0`. -/
def isZero (x : F32) : Bool := expOf x == 0 && fracOf x == 0

/-- The significand of a finite value: the fraction, with the hidden bit when it is normal. A finite
`x` is `± significand × 2^(scale - 149)`; subnormals are kept (00_scope.md R9). -/
def significand (x : F32) : Nat := if expOf x = 0 then fracOf x else fracOf x + 2 ^ 23

/-- The exponent of a finite value, counted from the subnormals' 2^-149. -/
def scale (x : F32) : Nat := if expOf x = 0 then 0 else expOf x - 1

/-- A zero of the given sign. -/
def zeroF32 (neg : Bool) : F32 := if neg then 0x80000000#32 else 0x00000000#32

/-- An infinity of the given sign. -/
def infF32 (neg : Bool) : F32 := if neg then 0xFF800000#32 else 0x7F800000#32

/-- A quiet NaN whose sign and payload are the bits of `free` (log 12). -/
def quietNaN (free : BitVec 32) : F32 := free ||| 0x7FC00000#32

/-- `m / 2^k` rounded to the nearest integer, ties to even. -/
def rneShift (m k : Nat) : Nat :=
  let q := m / 2 ^ k
  let r := m % 2 ^ k
  if 2 ^ k < 2 * r ∨ (2 * r = 2 ^ k ∧ q % 2 = 1) then q + 1 else q

/-- The binary32 value nearest to `± m × 2^(y - 298)`, ties to even: the significand is cut to 24
bits, or to the subnormals' last place 2^-149, by one rounding; a carry out of the significand moves
into the exponent field, and a value past the largest finite one is an infinity. -/
def roundF32 (neg : Bool) (m y : Nat) : F32 :=
  if m = 0 then zeroF32 neg
  else
    let q := max (y + m.log2 - 23) 149
    let m' := if q ≤ y then m * 2 ^ (y - q) else rneShift m (q - y)
    let pattern := (q - 149) * 2 ^ 23 + m'
    if 0x7F800000 ≤ pattern then infF32 neg
    else BitVec.ofNat 32 (pattern + if neg then 2 ^ 31 else 0)

/-- `f32(k)`: an unsigned integer below 2^24 as binary32, exact (00_scope.md R9). -/
def f32 (k : Nat) : F32 := roundF32 false k 298

/-- `fmul32(x, y)`: the binary32 product, rounded once to nearest even. The sign of a zero product is
the XOR of the operand signs (00_scope.md R9). -/
def fmul32 (x y : F32) : F32 :=
  let neg := signOf x != signOf y
  if isNaN x || isNaN y then quietNaN (Config.freeNanMul x y)
  else if isInf x || isInf y then
    if isZero x || isZero y then quietNaN (Config.freeNanMul x y) else infF32 neg
  else roundF32 neg (significand x * significand y) (scale x + scale y)

/-- The exact sum of two finite values of significands `mx`, `my` at one common exponent, rounded
once. An exact zero sum is `+0`, but for `(-0) + (-0) = -0` (00_scope.md R9). -/
def addFinite (negX negY : Bool) (mx my y : Nat) : F32 :=
  if negX = negY then roundF32 negX (mx + my) y
  else if mx = my then zeroF32 false
  else if my < mx then roundF32 negX (mx - my) y
  else roundF32 negY (my - mx) y

/-- `fadd32(x, y)`: the binary32 sum, rounded once to nearest even (00_scope.md R9). -/
def fadd32 (x y : F32) : F32 :=
  if isNaN x || isNaN y then quietNaN (Config.freeNanAdd x y)
  else if isInf x && isInf y then
    if signOf x = signOf y then x else quietNaN (Config.freeNanAdd x y)
  else if isInf x then x
  else if isInf y then y
  else
    let e := min (scale x) (scale y)
    addFinite (signOf x) (signOf y)
      (significand x * 2 ^ (scale x - e)) (significand y * 2 ^ (scale y - e)) (e + 149)

end Sys2Proof.Machine
end

