-- ==== Sys2Proof/Machine/Roms.lean ====
section
/-! DEFINITION. The requantization ROMs, every entry (spec/20_memory.md R50 to R54). -/

namespace Sys2Proof.Machine

/-- FACTOR_ROM, addresses 0 to 15 (20_memory.md R50, R53). -/
def factorTable : List F32 :=
  [0x00000000#32, 0x3F2AAAAB#32, 0x3E924925#32, 0x3E088889#32, 0x3D842108#32, 0x3D020821#32,
   0x3C810204#32, 0x3C008081#32, 0x3B804020#32, 0x3B002008#32, 0x3A801002#32, 0x3A000801#32,
   0x39800400#32, 0x39000200#32, 0x38800100#32, 0x00000000#32]

/-- OFFSET_ROM under STEPWISE, addresses 0 to 15 (20_memory.md R51, R53). -/
def offsetTableStepwise : List F32 :=
  [0x00000000#32, 0xBF2AAAAB#32, 0xBF5B6DB8#32, 0xBF6EEEF0#32, 0xBF77BDEF#32, 0xBF7BEFC0#32,
   0xBF7DFBF8#32, 0xBF7EFF00#32, 0xBF7F7FC0#32, 0xBF7FBFF0#32, 0xBF7FDFFC#32, 0xBF7FF000#32,
   0xBF7FF800#32, 0xBF7FFC00#32, 0xBF7FFE00#32, 0x00000000#32]

/-- OFFSET_ROM under EXACT, addresses 0 to 15 (20_memory.md R51, R53). -/
def offsetTableExact : List F32 :=
  [0x00000000#32, 0xBF2AAAAB#32, 0xBF5B6DB7#32, 0xBF6EEEEF#32, 0xBF77BDEF#32, 0xBF7BEFBF#32,
   0xBF7DFBF8#32, 0xBF7EFEFF#32, 0xBF7F7FC0#32, 0xBF7FBFF0#32, 0xBF7FDFFC#32, 0xBF7FEFFF#32,
   0xBF7FF800#32, 0xBF7FFC00#32, 0xBF7FFE00#32, 0x00000000#32]

/-- SCF_ROM, addresses 0 to 15 (20_memory.md R52, R53). -/
def scfTable0 : List F32 :=
  [0x40000000#32, 0x3FCB2FF5#32, 0x3FA14518#32, 0x3F800000#32, 0x3F4B2FF5#32, 0x3F214518#32,
   0x3F000000#32, 0x3ECB2FF5#32, 0x3EA14518#32, 0x3E800000#32, 0x3E4B2FF5#32, 0x3E214518#32,
   0x3E000000#32, 0x3DCB2FF5#32, 0x3DA14518#32, 0x3D800000#32]

/-- SCF_ROM, addresses 16 to 31. -/
def scfTable1 : List F32 :=
  [0x3D4B2FF5#32, 0x3D214518#32, 0x3D000000#32, 0x3CCB2FF5#32, 0x3CA14518#32, 0x3C800000#32,
   0x3C4B2FF5#32, 0x3C214518#32, 0x3C000000#32, 0x3BCB2FF5#32, 0x3BA14518#32, 0x3B800000#32,
   0x3B4B2FF5#32, 0x3B214518#32, 0x3B000000#32, 0x3ACB2FF5#32]

/-- SCF_ROM, addresses 32 to 47. -/
def scfTable2 : List F32 :=
  [0x3AA14518#32, 0x3A800000#32, 0x3A4B2FF5#32, 0x3A214518#32, 0x3A000000#32, 0x39CB2FF5#32,
   0x39A14518#32, 0x39800000#32, 0x394B2FF5#32, 0x39214518#32, 0x39000000#32, 0x38CB2FF5#32,
   0x38A14518#32, 0x38800000#32, 0x384B2FF5#32, 0x38214518#32]

/-- SCF_ROM, addresses 48 to 63. -/
def scfTable3 : List F32 :=
  [0x38000000#32, 0x37CB2FF5#32, 0x37A14518#32, 0x37800000#32, 0x374B2FF5#32, 0x37214518#32,
   0x37000000#32, 0x36CB2FF5#32, 0x36A14518#32, 0x36800000#32, 0x364B2FF5#32, 0x36214518#32,
   0x36000000#32, 0x35CB2FF5#32, 0x35A14518#32, 0x00000000#32]

/-- `RomRead(FACTOR_ROM, a)` (20_memory.md R54): total, no side effect. -/
def factorRom (a : BitVec 4) : F32 := factorTable.getD a.toNat 0#32

/-- `RomRead(OFFSET_ROM, a)`, by OFFSET_VARIANT (20_memory.md R51, R54). -/
def offsetRom (v : OffsetVariant) (a : BitVec 4) : F32 :=
  match v with
  | .stepwise => offsetTableStepwise.getD a.toNat 0#32
  | .exact => offsetTableExact.getD a.toNat 0#32

/-- `RomRead(SCF_ROM, c)` (20_memory.md R52, R54). -/
def scfRom (c : BitVec 6) : F32 :=
  (scfTable0 ++ scfTable1 ++ scfTable2 ++ scfTable3).getD c.toNat 0#32

end Sys2Proof.Machine
end

