-- ==== Sys2Proof/Machine/State.lean ====
section
/-! DEFINITION. The state of L1SD (spec/10_state.md), of the signals it samples and of the port agents
(spec/20_memory.md R55), as plain data; the reasons a step can stop; the state after reset
(spec/70_reset_and_hazards.md R241). -/

namespace Sys2Proof.Machine

/-- SEL, the channel selector (10_state.md R23). The code 3 is never stored (log 18). -/
inductive Sel where
  | both | leftOnly | rightOnly
deriving DecidableEq, Repr

/-- MODE, the channel mode (10_state.md R24, 30_encoding.md R93). -/
inductive ChMode where
  | stereo | jointStereo | dualChannel | mono
deriving DecidableEq, Repr

/-- FSM, the sequencer state (10_state.md R37). -/
inductive Fsm where
  | idle | init | allocate | scaleSelect | scaleFactors | sampleLoop | done | error
deriving DecidableEq, Repr

/-- SEQ_PH, the phase within SAMPLELOOP (10_state.md R36). -/
inductive Phase where
  | read | put | synA | synB
deriving DecidableEq, Repr

/-- CAUSE, the fault causes (60_exceptions.md R200). The codes 7 to 15 are never written (log 18). -/
inductive Cause where
  | none | bitstreamExhausted | collaboratorError | configInvalid | notCreated | illegalCmd | illegalUop
deriving DecidableEq, Repr

/-- ERRSRC (10_state.md R25): whether a uop or a host command faulted. -/
inductive ErrSrc where
  | uop | hostCommand
deriving DecidableEq, Repr

/-- The logical channel k of a subband entry (10_state.md R28: the fields with suffix 0 and 1). -/
inductive Ch where
  | c0 | c1
deriving DecidableEq, Repr

/-- The fields of one logical channel of a subband entry (10_state.md R28): Ak, Wk, FACk, OFFk, SCFIk,
SCFk, RAWk. -/
structure Chan where
  a : BitVec 4
  w : BitVec 5
  fac : F32
  off : F32
  scfi : BitVec 6
  scf : F32
  raw : BitVec 16
deriving DecidableEq, Repr

/-- One entry of the subband register file (10_state.md R28). -/
structure SbEntry where
  valid : Bool
  var : Variant
  idx : SbIdx
  ch0 : Chan
  ch1 : Chan
  gcnt : BitVec 4
deriving DecidableEq, Repr

/-- The header signals HDR_MODE, HDR_N, HDR_B, HDR_CKOK (10_state.md R38). -/
structure Header where
  mode : ChMode
  n : BitVec 6
  b : BitVec 6
  ckok : Bool
deriving DecidableEq, Repr

/-- The signals the host drives: RST (70_reset_and_hazards.md R240), a command word with CMD_VALID
(43_frame_sequencer.md R176), a word driven on the uop bus directly (30_encoding.md R90,
41_subband_ops.md R122; log 7), and the header signals. `cmd = some w` is CMD_VALID = 1 with
CMD_WORD = w. -/
structure Pins where
  rst : Bool
  cmd : Option Word
  uop : Option Word
  hdr : Header
deriving DecidableEq, Repr

/-- What the host does before one step: the signals it drives, where it repositions the bit reader's
cursor, if it does (70_reset_and_hazards.md R252), and from here on the grain of a step (see
`State.budget`). -/
structure HostInput where
  pins : Pins
  seek : Option Nat
  budget : Option Nat
deriving DecidableEq, Repr

/-- How a CRC accumulator or a synthesis filter completes a transaction (20_memory.md R57), or that it
never does (60_exceptions.md R216). -/
inductive Reply where
  | ok | err | never
deriving DecidableEq, Repr

/-- Whether the bit reader completes a GetBits (with a value, or with EXHAUSTED when too few bits
remain, 20_memory.md R56) or never does (60_exceptions.md R216). -/
inductive BrReply where
  | answers | never
deriving DecidableEq, Repr

/-- A collaborator's coming completions, in order; `rest` is every one after the list's end. -/
structure Script (ρ : Type) where
  queue : List ρ
  rest : ρ
deriving DecidableEq, Repr

/-- The bit reader: the stream, its cursor (10_state.md R39), and its completions. -/
structure BitReader where
  bits : List Bool
  cursor : Nat
  replies : Script BrReply
deriving DecidableEq, Repr

/-- A port transaction (00_scope.md R11). A CrcAdd's width is always 4 (20_memory.md R58). -/
inductive Txn where
  | getBits (n : Nat)
  | crcAdd (v : BitVec 4)
  | inject (f : Filter) (idx : SbIdx) (x : F32)
  | synth (f : Filter)
deriving DecidableEq, Repr

/-- How a transaction ended: GetBits with a value or EXHAUSTED, the others with OK or ERR
(20_memory.md R57), or abandoned by a reset (70_reset_and_hazards.md R240). -/
inductive Completion where
  | value (v : Nat)
  | ok
  | exhausted
  | err
  | abandoned
deriving DecidableEq, Repr

/-- One entry of the transaction trace (60_exceptions.md R214). -/
structure Event where
  txn : Txn
  result : Completion
deriving DecidableEq, Repr

/-- A uop that stands between two of its transactions: those it has completed, in order, and its word if it
was driven on the uop bus directly (log 7); the word of a sequencer's uop is the one SEQ names. L1SD's
registers hold what they held before the uop until it ends (20_memory.md R68, log 11). -/
structure InFlight where
  driven : Option Word
  latched : List Event
deriving DecidableEq, Repr

/-- The state of L1SD, of the signals it samples and of the port agents. -/
structure State where
  /-- CREATED (10_state.md R33). -/
  created : Bool
  /-- SEL (R33). -/
  sel : Sel
  /-- CRC_PRESENT (R33). -/
  crcPresent : Bool
  /-- MODE (R32). -/
  mode : ChMode
  /-- N (R32). -/
  n : BitVec 6
  /-- B (R32). -/
  b : BitVec 6
  /-- GUARD (R32). -/
  guard : Bool
  /-- RREADY (R34). -/
  rready : Bool
  /-- WREADY (R34). -/
  wready : Bool
  /-- FSM (R36, R37). -/
  fsm : Fsm
  /-- SEQ_I (R36). -/
  seqI : SbIdx
  /-- SEQ_PH (R36). -/
  seqPh : Phase
  /-- SEQ_G (R36). -/
  seqG : BitVec 4
  /-- CAUSE (60_exceptions.md R200). -/
  cause : Cause
  /-- ERRWORD (10_state.md R25). -/
  errWord : Word
  /-- ERRSRC (R25). -/
  errSrc : ErrSrc
  /-- ERRGRAN (R25). -/
  errGran : BitVec 4
  /-- BITCNT (R35). -/
  bitcnt : BitVec 32
  /-- The subband register file SB (R26). -/
  sb : Vector SbEntry 32
  /-- The transaction that never completes, if any (20_memory.md R57, 60_exceptions.md R216). -/
  outstanding : Option Txn
  /-- The uop that stands between two of its transactions, if any (70_reset_and_hazards.md R240, R257). -/
  inFlight : Option InFlight
  /-- The signals the host drives now. -/
  pins : Pins
  /-- What the host does before the coming steps, one entry a step (log 6). -/
  inputs : List HostInput
  /-- The MODEL's own field, the grain of a step (70_reset_and_hazards.md R257, log 9): `some k` lets a step
  issue k + 1 transactions of its uop, so that every step goes on (R258), and `none` as many as it has. -/
  budget : Option Nat
  /-- The bit reader (port BR). -/
  br : BitReader
  /-- The CRC accumulator's completions (port CRC). -/
  crc : Script Reply
  /-- Filter A's completions (port FA). -/
  fa : Script Reply
  /-- Filter B's completions (port FB). -/
  fb : Script Reply
  /-- The port transactions so far, oldest first (60_exceptions.md R214). -/
  trace : List Event
  /-- The OPEN parameters (00_scope.md R7), never changed (log 4). -/
  params : Params
  /-- The MODEL's own counter of free values (log 2). -/
  freeCount : Nat
deriving DecidableEq, Repr

/-- Why a run stops. L1SD's own faults are no stops: they are states, FSM = ERROR with a CAUSE. -/
inductive Fault where
  /-- `step` answers it when a transaction is outstanding that its collaborator never completes, RST is
  not asserted and no host input is left that could assert it: 60_exceptions.md R216's outcome `stuck`,
  L1SD waiting for ever. SAFE: it claims no further state. -/
  | stuck
deriving DecidableEq, Repr

/-- Why an instruction has no meaning. -/
inductive Refusal where
  /-- An arm of `exec` with no meaning yet would answer it, by mnemonic. No arm does. SAFE. -/
  | notModelled (mnemonic : String)
deriving DecidableEq, Repr

/-- A channel with every field zero: the creation values of 41_subband_ops.md R110, and the model's
choice for the fields whose reset value 10_state.md R28 leaves unspecified (DESIGN CHOICE, log 1). -/
def Chan.zero : Chan :=
  { a := 0#4, w := 0#5, fac := 0#32, off := 0#32, scfi := 0#6, scf := 0#32, raw := 0#16 }

/-- Entry i after reset: VALID = 0 and IDX = i (70_reset_and_hazards.md R241); the other fields are
unspecified, zero here (DESIGN CHOICE, log 1). -/
def SbEntry.atReset (i : SbIdx) : SbEntry :=
  { valid := false, var := .mono, idx := i, ch0 := Chan.zero, ch1 := Chan.zero, gcnt := 0#4 }

/-- The subband register file after reset. -/
def sbAtReset : Vector SbEntry 32 := Vector.ofFn fun i => SbEntry.atReset (BitVec.ofNat 5 i.val)

/-- A script that completes every transaction the same way. -/
def Script.always {ρ : Type} (r : ρ) : Script ρ := { queue := [], rest := r }

/-- No signal asserted, no word offered, header signals 0 (DESIGN CHOICE, log 6 and log 7). -/
def Pins.quiet : Pins :=
  { rst := false, cmd := none, uop := none, hdr := { mode := .stereo, n := 0#6, b := 0#6, ckok := false } }

/-- The machine right after reset: L1SD's registers at the values of 70_reset_and_hazards.md R241;
the host silent, the stream empty, every collaborator completing without error (DESIGN CHOICE, log 5
and log 6); the parameters at the spec's defaults (log 4). -/
def State.reset : State :=
  { created := false, sel := .both, crcPresent := false
    mode := .stereo, n := 0#6, b := 0#6, guard := false
    rready := false, wready := false
    fsm := .idle, seqI := 0#5, seqPh := .read, seqG := 0#4
    cause := .none, errWord := 0#16, errSrc := .uop, errGran := 0#4
    bitcnt := 0#32
    sb := sbAtReset
    outstanding := none
    inFlight := none
    pins := Pins.quiet
    inputs := []
    budget := none
    br := { bits := [], cursor := 0, replies := Script.always .answers }
    crc := Script.always .ok
    fa := Script.always .ok
    fb := Script.always .ok
    trace := []
    params := Params.default
    freeCount := 0 }

end Sys2Proof.Machine
end

