-- ==== Sys2Proof/Machine/Ops.lean ====
section
/-! DEFINITION. The named operations over the state: the subband register file, fault entry and the way
out of it, the port transactions, and reset (spec/20_memory.md R56 to R60, spec/60_exceptions.md R204
to R206, spec/70_reset_and_hazards.md R240 to R242). -/

namespace Sys2Proof.Machine

/-! ## The subband register file -/

/-- `SB[i]` (00_scope.md R10). -/
def State.entry (s : State) (i : SbIdx) : SbEntry := s.sb[i.toNat]'i.isLt

/-- `SB[i] <- e`. -/
def State.setEntry (s : State) (i : SbIdx) (e : SbEntry) : State :=
  { s with sb := s.sb.set i.toNat e i.isLt }

/-- The fields of channel k of an entry. -/
def SbEntry.ch (e : SbEntry) : Ch → Chan
  | .c0 => e.ch0
  | .c1 => e.ch1

/-- An entry with the fields of channel k replaced. -/
def SbEntry.withCh (e : SbEntry) (k : Ch) (c : Chan) : SbEntry :=
  match k with
  | .c0 => { e with ch0 := c }
  | .c1 => { e with ch1 := c }

/-- Channel k of `SB[i]`. -/
def State.chan (s : State) (i : SbIdx) (k : Ch) : Chan := (s.entry i).ch k

/-- Channel k of `SB[i]` replaced. -/
def State.setChan (s : State) (i : SbIdx) (k : Ch) (c : Chan) : State :=
  s.setEntry i ((s.entry i).withCh k c)

/-- The value CREATE_SB writes to entry i: VALID 1, the variant, IDX = i, every other field zero
(10_state.md R28, 41_subband_ops.md R110). -/
def SbEntry.created (v : Variant) (i : SbIdx) : SbEntry :=
  { valid := true, var := v, idx := i, ch0 := Chan.zero, ch1 := Chan.zero, gcnt := 0#4 }

/-- `for j in 0..31: SB[j].VALID <- 0` (43_frame_sequencer.md R161, 10_state.md R41). -/
def State.clearValid (s : State) : State :=
  { s with sb := s.sb.map fun e => { e with valid := false } }

/-! ## Free values (log 2) -/

/-- A channel whose every field is a free value. -/
def Chan.free (stamp entry base : Nat) : Chan :=
  { a := (Config.freeField stamp entry base).setWidth 4
    w := (Config.freeField stamp entry (base + 1)).setWidth 5
    fac := Config.freeField stamp entry (base + 2)
    off := Config.freeField stamp entry (base + 3)
    scfi := (Config.freeField stamp entry (base + 4)).setWidth 6
    scf := Config.freeField stamp entry (base + 5)
    raw := (Config.freeField stamp entry (base + 6)).setWidth 16 }

/-- A variant from free bits. -/
def Variant.free (b : BitVec 32) : Variant :=
  if b.getLsbD 0 then .mono else if b.getLsbD 1 then .st else .is

/-- An entry whose every field but the constant IDX is a free value. -/
def SbEntry.free (stamp : Nat) (i : SbIdx) : SbEntry :=
  { valid := (Config.freeField stamp i.toNat 0).getLsbD 0
    var := Variant.free (Config.freeField stamp i.toNat 1)
    idx := i
    ch0 := Chan.free stamp i.toNat 2
    ch1 := Chan.free stamp i.toNat 9
    gcnt := (Config.freeField stamp i.toNat 16).setWidth 4 }

/-- After a uop's fault "the contents of the SB entries of the failed frame are unspecified"
(60_exceptions.md R204): every entry with VALID = 1 becomes free (DESIGN CHOICE, log 2). -/
def State.spoilEntries (s : State) : State :=
  { s with
    sb := s.sb.map fun e => if e.valid then SbEntry.free s.freeCount e.idx else e
    freeCount := s.freeCount + 1 }

/-! ## Taking a fault, and leaving the error state -/

/-- `raise Fault(cause, info)` (60_exceptions.md R204): FSM, CAUSE and ERRINFO, nothing else. -/
def State.raiseFault (s : State) (cause : Cause) (word : Word) (src : ErrSrc) : State :=
  { s with fsm := .error, cause := cause, errWord := word, errSrc := src, errGran := s.seqG }

/-- `CAUSE <- 0 ; ERRINFO <- 0`, which every way out of the error state does (60_exceptions.md R206;
43_frame_sequencer.md R160, R161). -/
def State.clearFault (s : State) : State :=
  { s with cause := .none, errWord := 0#16, errSrc := .uop, errGran := 0#4 }

/-- What a uop in progress knows of itself: its word, for ERRWORD (60_exceptions.md R204); the completions
of its earlier transactions, which a uop taken up again finds latched; and how many transactions it may
still issue in this step (70_reset_and_hazards.md R257, log 9). -/
structure UopCtx where
  word : Word
  replay : List Event
  budget : Option Nat
deriving DecidableEq, Repr

/-- A uop run from its beginning to its end. -/
def UopCtx.fresh (w : Word) : UopCtx := { word := w, replay := [], budget := none }

/-- A fault of a uop: fault entry with ERRSRC = 0, the failed frame's entries unspecified. The bit reader's
cursor, which 70_reset_and_hazards.md R252 calls unknown after a fault, stays where the last completed read
left it, for "bits consumed stay consumed" (60_exceptions.md R204; DEDUCED, log 20), but after EXHAUSTED it is
free (log 3). -/
def State.uopFault (s : State) (c : UopCtx) (cause : Cause) : State :=
  s.spoilEntries.raiseFault cause c.word .uop

/-- A fault of a host command: fault entry with ERRSRC = 1. No uop ran, so no entry is touched. -/
def State.cmdFault (s : State) (cause : Cause) (word : Word) : State :=
  s.raiseFault cause word .hostCommand

/-! ## Uops as sequences of transactions -/

/-- A part of a uop goes on with a value and a state; or the uop has ended in a fault (60_exceptions.md
R204); or the transaction t never completes (R216); or the uop stands before its next transaction, for
this step's grain is used up (70_reset_and_hazards.md R257). -/
inductive Flow (α : Type) where
  | done (a : α) (c : UopCtx) (s : State)
  | stop (s : State)
  | hang (t : Txn) (s : State)
  | pause (s : State)
deriving DecidableEq, Repr

/-- The next part runs only where the one before went on: "no later transaction of that uop is issued"
(20_memory.md R57). -/
def Flow.bind {α β : Type} (x : Flow α) (f : α → UopCtx → State → Flow β) : Flow β :=
  match x with
  | .done a c s => f a c s
  | .stop s => .stop s
  | .hang t s => .hang t s
  | .pause s => .pause s

/-- s with the port agents of t, and the trace of what passed on the ports. L1SD's registers stay. -/
def State.withPorts (s t : State) : State :=
  { s with br := t.br, crc := t.crc, fa := t.fa, fb := t.fb, trace := t.trace }

/-- The state after a uop that began at s has been taken as far as it goes: one that has not ended has
changed the port agents only, since a uop is atomic for the host's reads (20_memory.md R68, log 11). -/
def Flow.settle (x : Flow Unit) (s : State) : State :=
  match x with
  | .done _ _ t => t
  | .stop t => t
  | .hang x t => { s.withPorts t with outstanding := some x }
  | .pause t => s.withPorts t

/-- A uop's whole run as an outcome: a fault is fault entry, a next state. -/
def runUop (u : Instr) (body : UopCtx → State → Flow Unit) (s : State) :
    Host.Outcome State Fault Refusal :=
  .next ((body (UopCtx.fresh (encode u)) s).settle s)

/-- The execute-time checks of a uop that names an entry, VALID before VAR (30_encoding.md R90). -/
def checkEntry (c : UopCtx) (i : SbIdx) (v : Variant) (s : State) : Flow Unit :=
  if (s.entry i).valid = false then .stop (s.uopFault c .illegalUop)
  else if (s.entry i).var ≠ v then .stop (s.uopFault c .illegalUop)
  else .done () c s

/-! ## Port transactions -/

/-- What a uop that comes to a transaction does: find its completion latched, stand before it, or issue
it. -/
inductive Turn where
  | latched (e : Event) (c : UopCtx)
  | wait
  | issue (c : UopCtx)
deriving DecidableEq, Repr

/-- Latched completions come first, in order; then transactions are issued while the step's grain lasts
(70_reset_and_hazards.md R257: "one transaction, or one internal uop step, at a time"; log 9). -/
def UopCtx.turn (c : UopCtx) : Turn :=
  match c.replay with
  | e :: rest => .latched e { c with replay := rest }
  | [] =>
    match c.budget with
    | none => .issue c
    | some 0 => .wait
    | some (k + 1) => .issue { c with budget := some k }

/-- The value a latched GetBits completed with. -/
def Completion.bits : Completion → Nat
  | .value v => v
  | .ok | .exhausted | .err | .abandoned => 0

/-- How the collaborator completes its next transaction. -/
def Script.next {ρ : Type} (x : Script ρ) : ρ := x.queue.headD x.rest

/-- The script after that transaction. -/
def Script.advance {ρ : Type} (x : Script ρ) : Script ρ := { x with queue := x.queue.tail }

/-- One more entry of the trace (60_exceptions.md R214). -/
def State.record (s : State) (t : Txn) (r : Completion) : State :=
  { s with trace := s.trace ++ [{ txn := t, result := r }] }

/-- An unsigned integer from bits, most significant first (20_memory.md R56). -/
def natOfBits (bits : List Bool) : Nat :=
  bits.foldl (fun acc b => 2 * acc + b.toNat) 0

/-- The next n bits of the stream. -/
def BitReader.peek (r : BitReader) (n : Nat) : List Bool := (r.bits.drop r.cursor).take n

/-- The bit reader still has n bits (20_memory.md R56). -/
def BitReader.has (r : BitReader) (n : Nat) : Bool := r.cursor + n ≤ r.bits.length

/-- The bit reader after it has answered one GetBits. -/
def BitReader.answered (r : BitReader) : BitReader := { r with replies := r.replies.advance }

/-- BITCNT counts n bits (10_state.md R35). -/
def State.countBits (s : State) (n : Nat) : State := { s with bitcnt := s.bitcnt + BitVec.ofNat 32 n }

/-- `GetBits(n)` completed with a value (20_memory.md R56): the cursor moves by n and BITCNT counts n
(10_state.md R35). -/
def State.tookBits (s : State) (n : Nat) : State :=
  { (s.record (.getBits n) (.value (natOfBits (s.br.peek n)))).countBits n with
    br := { s.br.answered with cursor := s.br.cursor + n } }

/-- `GetBits(n)` completed with EXHAUSTED (20_memory.md R56): the cursor is the bit reader's own
business then, a free value (log 3), and nothing is counted. -/
def State.foundExhausted (s : State) (n : Nat) : State :=
  { (s.record (.getBits n) .exhausted) with
    br := { s.br.answered with cursor := Config.freeCursor s.freeCount } }

/-- A GetBits that is issued (20_memory.md R56, R57): a value, or the fault BITSTREAM_EXHAUSTED, or no
completion. -/
def issueGetBits (c : UopCtx) (n : Nat) (s : State) : Flow Nat :=
  match s.br.replies.next with
  | .never => .hang (.getBits n) { s with br := s.br.answered }
  | .answers =>
    if s.br.has n then .done (natOfBits (s.br.peek n)) c (s.tookBits n)
    else .stop ((s.foundExhausted n).uopFault c .bitstreamExhausted)

/-- `GetBits(n)` on port BR (20_memory.md R56). A latched value is n bits wide. -/
def getBits (c : UopCtx) (n : Nat) (s : State) : Flow Nat :=
  match c.turn with
  | .latched e c => .done (e.result.bits % 2 ^ n) c (s.countBits n)
  | .wait => .pause s
  | .issue c => issueGetBits c n s

/-- The completion r of a CrcAdd, Inject or Synth: OK, or ERR and the fault COLLABORATOR_ERROR
(20_memory.md R57), or none. -/
def complete (c : UopCtx) (t : Txn) (r : Reply) (s : State) : Flow Unit :=
  match r with
  | .ok => .done () c (s.record t .ok)
  | .err => .stop ((s.record t .err).uopFault c .collaboratorError)
  | .never => .hang t s

/-- A CrcAdd, Inject or Synth t: where it is issued, its port's script goes on to `issued` and the
completion is r. -/
def transact (c : UopCtx) (t : Txn) (r : Reply) (s issued : State) : Flow Unit :=
  match c.turn with
  | .latched _ c => .done () c s
  | .wait => .pause s
  | .issue c => complete c t r issued

/-- `CrcAdd(v, 4)` on port CRC (20_memory.md R58). -/
def crcAdd (c : UopCtx) (v : BitVec 4) (s : State) : Flow Unit :=
  transact c (.crcAdd v) s.crc.next s { s with crc := s.crc.advance }

/-- The completion script of filter f. -/
def State.filterScript (s : State) : Filter → Script Reply
  | .a => s.fa
  | .b => s.fb

/-- Filter f's script after one transaction. -/
def State.advanceFilter (s : State) : Filter → State
  | .a => { s with fa := s.fa.advance }
  | .b => { s with fb := s.fb.advance }

/-- `Inject(f, idx, x)` on port FA or FB (20_memory.md R59). -/
def inject (c : UopCtx) (f : Filter) (idx : SbIdx) (x : F32) (s : State) : Flow Unit :=
  transact c (.inject f idx x) (s.filterScript f).next s (s.advanceFilter f)

/-- `Synth(f)` on port FA or FB (20_memory.md R60). -/
def synth (c : UopCtx) (f : Filter) (s : State) : Flow Unit :=
  transact c (.synth f) (s.filterScript f).next s (s.advanceFilter f)

/-- The Injects of one PUT, in order (42_dequant_routing.md R142). -/
def injectAll (c : UopCtx) (idx : SbIdx) (values : List (Filter × F32)) (s : State) : Flow Unit :=
  match values with
  | [] => .done () c s
  | (f, x) :: rest => (inject c f idx x s).bind fun _ c s => injectAll c idx rest s

/-! ## Reset -/

/-- The outstanding transaction is abandoned; what that does to the collaborator is the collaborator's
business (70_reset_and_hazards.md R240, R242): the trace says so, and the cursor is free if it was a
GetBits (log 3, log 15). -/
def State.abandon (s : State) : State :=
  match s.outstanding with
  | none => s
  | some t =>
    { (s.record t .abandoned) with
      br := match t with
        | .getBits _ => { s.br with cursor := Config.freeCursor s.freeCount }
        | _ => s.br
      outstanding := none
      freeCount := s.freeCount + 1 }

/-- RST (70_reset_and_hazards.md R240 to R242): every register of L1SD takes its reset value, and a uop
between two transactions is dropped; the host's signals, the grain, the collaborators, the trace of what
was issued and the parameters stay. -/
def State.applyReset (s : State) : State :=
  let t := s.abandon
  { State.reset with
    pins := t.pins, inputs := t.inputs, budget := t.budget
    br := t.br, crc := t.crc, fa := t.fa, fb := t.fb
    trace := t.trace, params := t.params, freeCount := t.freeCount }

end Sys2Proof.Machine
end

