-- ==== Sys2Proof/Machine/Command.lean ====
section
/-! DEFINITION. The host commands CFG and DECODE at their acceptance (spec/43_frame_sequencer.md R160 to
R162). -/

namespace Sys2Proof.Machine

/-- SEL from CFG's `[1:0]`; the code 3 is illegal (30_encoding.md R92). -/
def selOfCode (c : BitVec 2) : Option Sel :=
  if c = 0#2 then some .both
  else if c = 1#2 then some .leftOnly
  else if c = 2#2 then some .rightOnly
  else none

/-- CFG sel, crc (R160). SEL = 3 is no legal word: the fault ILLEGAL_CMD, nothing else written (log
14). -/
def execCfg (crc : Bool) (sel : BitVec 2) (s : State) : Host.Outcome State Fault Refusal :=
  match selOfCode sel with
  | none => .next (s.cmdFault .illegalCmd (encode (.cfg crc sel)))
  | some x =>
    .next { s.clearFault with sel := x, crcPresent := crc, created := true, fsm := .idle }

/-- `FrameValid(MODE, N, B)` (R162). -/
def frameValid (mode : ChMode) (n b : BitVec 6) : Bool :=
  1 ≤ n.toNat && n.toNat ≤ 32 && (mode != .jointStereo || b.toNat ≤ 32)

/-- What DECODE does before it validates the frame (R161): it latches the header, clears the last
fault, BITCNT, every VALID and the flags, and puts SEQ at (INIT, 0, READ, 0). -/
def State.startFrame (s : State) : State :=
  { s.clearFault.clearValid with
    mode := s.pins.hdr.mode, n := s.pins.hdr.n, b := s.pins.hdr.b
    bitcnt := 0#32
    rready := false, wready := false, guard := false
    fsm := .init, seqI := 0#5, seqPh := .read, seqG := 0#4 }

/-- DECODE (R161): NOT_CREATED before anything is latched, then CONFIG_INVALID, then the sequence,
whose uops the following steps issue. -/
def execDecode (s : State) : Host.Outcome State Fault Refusal :=
  if s.created = false then .next (s.cmdFault .notCreated (encode .decode))
  else if frameValid s.pins.hdr.mode s.pins.hdr.n s.pins.hdr.b then .next s.startFrame
  else .next (s.startFrame.cmdFault .configInvalid (encode .decode))

end Sys2Proof.Machine
end

