-- ==== Sys2Proof/Machine/Flags.lean ====
section
/-! DEFINITION. The flags RREADY, WREADY and GUARD (spec/10_state.md R34; spec/41_subband_ops.md R122;
spec/42_dequant_routing.md R140; spec/43_frame_sequencer.md R168). -/

namespace Sys2Proof.Machine

/-- GCNT after one more sample: it wraps to 0 on reaching 12 (41_subband_ops.md R122). -/
def nextGcnt (g : BitVec 4) : BitVec 4 := if g + 1#4 = 12#4 then 0#4 else g + 1#4

/-- The return value of a SAMPLE that finds the counter at g: 1 exactly on reaching 12
(41_subband_ops.md R122). -/
def readReadyAt (g : BitVec 4) : Bool := g + 1#4 == 12#4

/-- `GranuleStep(i)` (41_subband_ops.md R122). -/
def State.granuleStep (s : State) (i : SbIdx) : State :=
  { (s.setEntry i { s.entry i with gcnt := nextGcnt (s.entry i).gcnt }) with
    rready := readReadyAt (s.entry i).gcnt }

/-- `WREADY <- 1`, the return value of every PUT that completes (42_dequant_routing.md R140). -/
def State.setWready (s : State) : State := { s with wready := true }

/-- `GuardEval()` (43_frame_sequencer.md R168): HDR_CKOK is sampled at this instant. -/
def State.guardEval (s : State) : Bool :=
  match s.params.guardMode with
  | .permissive => s.crcPresent || s.pins.hdr.ckok
  | .strict => s.pins.hdr.ckok

end Sys2Proof.Machine
end

