-- ==== Sys2Proof/Machine/Operands.lean ====
section
/-! DEFINITION. What the uops compute from their operands: the allocation and scale-factor fields, the
dequantized values and the routing table (spec/41_subband_ops.md R111, R116;
spec/42_dequant_routing.md R141, R142, R145). -/

namespace Sys2Proof.Machine

/-- The sample width `W = a + 1` of a nonzero code (30_encoding.md R87, 41_subband_ops.md R111). -/
def widthOf (a : BitVec 4) : BitVec 5 := a.setWidth 5 + 1#5

/-- A channel's fields after `SetAlloc` with code a (41_subband_ops.md R111): a zero code writes A
alone. -/
def Chan.withAlloc (c : Chan) (v : OffsetVariant) (a : BitVec 4) : Chan :=
  if a = 0#4 then { c with a := a }
  else { c with a := a, w := widthOf a, fac := factorRom a, off := offsetRom v a }

/-- `SetAlloc(i, k, a)` (41_subband_ops.md R111). -/
def State.setAlloc (s : State) (i : SbIdx) (k : Ch) (a : BitVec 4) : State :=
  s.setChan i k ((s.chan i k).withAlloc s.params.offsetVariant a)

/-- A 4-bit allocation code from the stream: `a <- GetBits(4)` (41_subband_ops.md R112). -/
def getCode4 (c : UopCtx) (s : State) : Flow (BitVec 4) :=
  (getBits c 4 s).bind fun v c s => .done (BitVec.ofNat 4 v) c s

/-- `if CRC_PRESENT = 1: CrcAdd(a, 4)` (41_subband_ops.md R112, 20_memory.md R58). -/
def foldCode (c : UopCtx) (a : BitVec 4) (s : State) : Flow Unit :=
  if s.crcPresent then crcAdd c a s else .done () c s

/-- One allocation code, folded and stored in channel 0: the body of ALLOC.MONO and ALLOC.IS
(41_subband_ops.md R112, R114). -/
def allocOne (c : UopCtx) (i : SbIdx) (s : State) : Flow Unit :=
  (getCode4 c s).bind fun a c s =>
  (foldCode c a s).bind fun _ c s =>
  .done () c (s.setAlloc i .c0 a)

/-- Two codes: read, read, add, add, store: the body of ALLOC.ST (41_subband_ops.md R113). -/
def allocTwo (c : UopCtx) (i : SbIdx) (s : State) : Flow Unit :=
  (getCode4 c s).bind fun a0 c s =>
  (getCode4 c s).bind fun a1 c s =>
  (foldCode c a0 s).bind fun _ c s =>
  (foldCode c a1 s).bind fun _ c s =>
  .done () c ((s.setAlloc i .c0 a0).setAlloc i .c1 a1)

/-- `SCFIk <- c ; SCFk <- RomRead(SCF_ROM, c)` (41_subband_ops.md R116). -/
def State.setScf (s : State) (i : SbIdx) (k : Ch) (code : BitVec 6) : State :=
  s.setChan i k { s.chan i k with scfi := code, scf := scfRom code }

/-- `ReadScf(i, k)` (41_subband_ops.md R116). -/
def readScf (c : UopCtx) (i : SbIdx) (k : Ch) (s : State) : Flow Unit :=
  (getBits c 6 s).bind fun v c s => .done () c (s.setScf i k (BitVec.ofNat 6 v))

/-- `if SB[i].Ag ≠ 0: ReadScf(i, k)` (41_subband_ops.md R117, R118). -/
def scfChannel (c : UopCtx) (i : SbIdx) (k : Ch) (s : State) : Flow Unit :=
  if (s.chan i k).a ≠ 0#4 then readScf c i k s else .done () c s

/-- Both scale factors gated by the one shared code A0: the body of SCF.IS (41_subband_ops.md R119). -/
def scfShared (c : UopCtx) (i : SbIdx) (s : State) : Flow Unit :=
  if (s.chan i .c0).a ≠ 0#4 then
    (readScf c i .c0 s).bind fun _ c s => readScf c i .c1 s
  else .done () c s

/-- `RAWk <- v`, zero-extended to 16 bits (20_memory.md R64; log 13 on widths no frame asks for). -/
def State.setRaw (s : State) (i : SbIdx) (k : Ch) (v : Nat) : State :=
  s.setChan i k { s.chan i k with raw := BitVec.ofNat 16 v }

/-- `if SB[i].Ak ≠ 0: SB[i].RAWk <- GetBits(SB[i].Wk)` (41_subband_ops.md R120, R121). -/
def sampleChannel (c : UopCtx) (i : SbIdx) (k : Ch) (s : State) : Flow Unit :=
  if (s.chan i k).a ≠ 0#4 then
    (getBits c (s.chan i k).w.toNat s).bind fun v c s => .done () c (s.setRaw i k v)
  else .done () c s

/-- `raw × factor + offset`, one rounding for each operation (42_dequant_routing.md R141, R145). -/
def Chan.requant (c : Chan) : F32 :=
  fadd32 (fmul32 (f32 c.raw.toNat) c.fac) c.off

/-- `Deq(i, k)` on the fields of channel k (42_dequant_routing.md R141). -/
def Chan.deq (c : Chan) : F32 := fmul32 c.requant c.scf

/-- The Injects of PUT.MONO (42_dequant_routing.md R142, R143). -/
def routeMono (sel : Sel) (v : F32) : List (Filter × F32) :=
  match sel with
  | .both => [(.a, v)]
  | .leftOnly => [(.a, v)]
  | .rightOnly => []

/-- The Injects of PUT.ST and PUT.IS, for the left value and the right value (42_dequant_routing.md
R142, R144, R145). -/
def routeTwo (sel : Sel) (left right : F32) : List (Filter × F32) :=
  match sel with
  | .both => [(.a, left), (.b, right)]
  | .leftOnly => [(.a, left)]
  | .rightOnly => [(.a, right)]

end Sys2Proof.Machine
end

