-- ==== Sys2Proof/Machine/Put.lean ====
section
/-! DEFINITION. The uops PUT and SYNTH, one meaning per row (spec/42_dequant_routing.md R140 to
R150). -/

namespace Sys2Proof.Machine

/-- The Injects of a PUT and then `WREADY <- 1`; a PUT that faults does not write WREADY (R140). -/
def emit (c : UopCtx) (i : SbIdx) (values : List (Filter × F32)) (s : State) : Flow Unit :=
  (injectAll c i values s).bind fun _ c s => .done () c s.setWready

/-- The Injects of PUT.MONO (R143). -/
def monoValues (s : State) (i : SbIdx) : List (Filter × F32) :=
  routeMono s.sel (s.chan i .c0).deq

/-- The Injects of PUT.ST (R144): each channel by its own fields. -/
def stValues (s : State) (i : SbIdx) : List (Filter × F32) :=
  routeTwo s.sel (s.chan i .c0).deq (s.chan i .c1).deq

/-- The Injects of PUT.IS (R145): one shared magnitude, two scale factors. -/
def isValues (s : State) (i : SbIdx) : List (Filter × F32) :=
  let shared := (s.chan i .c0).requant
  routeTwo s.sel (fmul32 shared (s.chan i .c0).scf) (fmul32 shared (s.chan i .c1).scf)

/-- PUT.MONO i (R143). -/
def uopPutMono (i : SbIdx) (c : UopCtx) (s : State) : Flow Unit :=
  (checkEntry c i .mono s).bind fun _ c s => emit c i (monoValues s i) s

/-- PUT.MONO i (R143), run whole. -/
def execPutMono (i : SbIdx) (s : State) : Host.Outcome State Fault Refusal :=
  runUop (.putMono i) (uopPutMono i) s

/-- PUT.ST i (R144). -/
def uopPutSt (i : SbIdx) (c : UopCtx) (s : State) : Flow Unit :=
  (checkEntry c i .st s).bind fun _ c s => emit c i (stValues s i) s

/-- PUT.ST i (R144), run whole. -/
def execPutSt (i : SbIdx) (s : State) : Host.Outcome State Fault Refusal :=
  runUop (.putSt i) (uopPutSt i) s

/-- PUT.IS i (R145). -/
def uopPutIs (i : SbIdx) (c : UopCtx) (s : State) : Flow Unit :=
  (checkEntry c i .is s).bind fun _ c s => emit c i (isValues s i) s

/-- PUT.IS i (R145), run whole. -/
def execPutIs (i : SbIdx) (s : State) : Host.Outcome State Fault Refusal :=
  runUop (.putIs i) (uopPutIs i) s

/-- SYNTH A (R149): no execute check; one Synth(A). -/
def uopSynthA (c : UopCtx) (s : State) : Flow Unit :=
  synth c .a s

/-- SYNTH A (R149), run whole. -/
def execSynthA (s : State) : Host.Outcome State Fault Refusal :=
  runUop .synthA uopSynthA s

/-- SYNTH B (R150): no execute check; one Synth(B). -/
def uopSynthB (c : UopCtx) (s : State) : Flow Unit :=
  synth c .b s

/-- SYNTH B (R150), run whole. -/
def execSynthB (s : State) : Host.Outcome State Fault Refusal :=
  runUop .synthB uopSynthB s

end Sys2Proof.Machine
end

