-- ==== Sys2Proof/Machine/Subband.lean ====
section
/-! DEFINITION. The subband uops CREATE_SB, ALLOC, SCFSI, SCF and SAMPLE, one meaning per row
(spec/41_subband_ops.md R110 to R123). -/

namespace Sys2Proof.Machine

/-! ## CREATE_SB (R110): no execute check, no transaction -/

/-- CREATE_SB.v i (R110). -/
def createSb (v : Variant) (i : SbIdx) (c : UopCtx) (s : State) : Flow Unit :=
  .done () c (s.setEntry i (SbEntry.created v i))

/-- CREATE_SB.MONO i (R110). -/
def uopCreateSbMono (i : SbIdx) (c : UopCtx) (s : State) : Flow Unit := createSb .mono i c s

/-- CREATE_SB.MONO i (R110), run whole. -/
def execCreateSbMono (i : SbIdx) (s : State) : Host.Outcome State Fault Refusal :=
  runUop (.createSbMono i) (uopCreateSbMono i) s

/-- CREATE_SB.ST i (R110). -/
def uopCreateSbSt (i : SbIdx) (c : UopCtx) (s : State) : Flow Unit := createSb .st i c s

/-- CREATE_SB.ST i (R110), run whole. -/
def execCreateSbSt (i : SbIdx) (s : State) : Host.Outcome State Fault Refusal :=
  runUop (.createSbSt i) (uopCreateSbSt i) s

/-- CREATE_SB.IS i (R110). -/
def uopCreateSbIs (i : SbIdx) (c : UopCtx) (s : State) : Flow Unit := createSb .is i c s

/-- CREATE_SB.IS i (R110), run whole. -/
def execCreateSbIs (i : SbIdx) (s : State) : Host.Outcome State Fault Refusal :=
  runUop (.createSbIs i) (uopCreateSbIs i) s

/-! ## ALLOC (R112 to R114) -/

/-- ALLOC.MONO i (R112). -/
def uopAllocMono (i : SbIdx) (c : UopCtx) (s : State) : Flow Unit :=
  (checkEntry c i .mono s).bind fun _ c s => allocOne c i s

/-- ALLOC.MONO i (R112), run whole. -/
def execAllocMono (i : SbIdx) (s : State) : Host.Outcome State Fault Refusal :=
  runUop (.allocMono i) (uopAllocMono i) s

/-- ALLOC.ST i (R113). -/
def uopAllocSt (i : SbIdx) (c : UopCtx) (s : State) : Flow Unit :=
  (checkEntry c i .st s).bind fun _ c s => allocTwo c i s

/-- ALLOC.ST i (R113), run whole. -/
def execAllocSt (i : SbIdx) (s : State) : Host.Outcome State Fault Refusal :=
  runUop (.allocSt i) (uopAllocSt i) s

/-- ALLOC.IS i (R114): one code for both channels; channel 1's fields are not written. -/
def uopAllocIs (i : SbIdx) (c : UopCtx) (s : State) : Flow Unit :=
  (checkEntry c i .is s).bind fun _ c s => allocOne c i s

/-- ALLOC.IS i (R114), run whole. -/
def execAllocIs (i : SbIdx) (s : State) : Host.Outcome State Fault Refusal :=
  runUop (.allocIs i) (uopAllocIs i) s

/-! ## SCFSI (R115): the checks, and nothing else -/

/-- SCFSI.MONO i (R115). -/
def uopScfsiMono (i : SbIdx) (c : UopCtx) (s : State) : Flow Unit :=
  checkEntry c i .mono s

/-- SCFSI.MONO i (R115), run whole. -/
def execScfsiMono (i : SbIdx) (s : State) : Host.Outcome State Fault Refusal :=
  runUop (.scfsiMono i) (uopScfsiMono i) s

/-- SCFSI.ST i (R115). -/
def uopScfsiSt (i : SbIdx) (c : UopCtx) (s : State) : Flow Unit :=
  checkEntry c i .st s

/-- SCFSI.ST i (R115), run whole. -/
def execScfsiSt (i : SbIdx) (s : State) : Host.Outcome State Fault Refusal :=
  runUop (.scfsiSt i) (uopScfsiSt i) s

/-- SCFSI.IS i (R115). -/
def uopScfsiIs (i : SbIdx) (c : UopCtx) (s : State) : Flow Unit :=
  checkEntry c i .is s

/-- SCFSI.IS i (R115), run whole. -/
def execScfsiIs (i : SbIdx) (s : State) : Host.Outcome State Fault Refusal :=
  runUop (.scfsiIs i) (uopScfsiIs i) s

/-! ## SCF (R117 to R119) -/

/-- SCF.MONO i (R117). -/
def uopScfMono (i : SbIdx) (c : UopCtx) (s : State) : Flow Unit :=
  (checkEntry c i .mono s).bind fun _ c s => scfChannel c i .c0 s

/-- SCF.MONO i (R117), run whole. -/
def execScfMono (i : SbIdx) (s : State) : Host.Outcome State Fault Refusal :=
  runUop (.scfMono i) (uopScfMono i) s

/-- SCF.ST i (R118): each channel gated by its own code. -/
def uopScfSt (i : SbIdx) (c : UopCtx) (s : State) : Flow Unit :=
  (checkEntry c i .st s).bind fun _ c s =>
  (scfChannel c i .c0 s).bind fun _ c s => scfChannel c i .c1 s

/-- SCF.ST i (R118), run whole. -/
def execScfSt (i : SbIdx) (s : State) : Host.Outcome State Fault Refusal :=
  runUop (.scfSt i) (uopScfSt i) s

/-- SCF.IS i (R119): both codes gated by the shared code A0. -/
def uopScfIs (i : SbIdx) (c : UopCtx) (s : State) : Flow Unit :=
  (checkEntry c i .is s).bind fun _ c s => scfShared c i s

/-- SCF.IS i (R119), run whole. -/
def execScfIs (i : SbIdx) (s : State) : Host.Outcome State Fault Refusal :=
  runUop (.scfIs i) (uopScfIs i) s

/-! ## SAMPLE (R120 to R123) -/

/-- One sample into channel 0, then GranuleStep: the body of SAMPLE.MONO and SAMPLE.IS (R120, R123). -/
def sampleOne (c : UopCtx) (i : SbIdx) (s : State) : Flow Unit :=
  (sampleChannel c i .c0 s).bind fun _ c s => .done () c (s.granuleStep i)

/-- GranuleStep between the two reads: the body of SAMPLE.ST (R121). -/
def sampleTwo (c : UopCtx) (i : SbIdx) (s : State) : Flow Unit :=
  (sampleChannel c i .c0 s).bind fun _ c s => sampleChannel c i .c1 (s.granuleStep i)

/-- SAMPLE.MONO i (R120). -/
def uopSampleMono (i : SbIdx) (c : UopCtx) (s : State) : Flow Unit :=
  (checkEntry c i .mono s).bind fun _ c s => sampleOne c i s

/-- SAMPLE.MONO i (R120), run whole. -/
def execSampleMono (i : SbIdx) (s : State) : Host.Outcome State Fault Refusal :=
  runUop (.sampleMono i) (uopSampleMono i) s

/-- SAMPLE.ST i (R121). -/
def uopSampleSt (i : SbIdx) (c : UopCtx) (s : State) : Flow Unit :=
  (checkEntry c i .st s).bind fun _ c s => sampleTwo c i s

/-- SAMPLE.ST i (R121), run whole. -/
def execSampleSt (i : SbIdx) (s : State) : Host.Outcome State Fault Refusal :=
  runUop (.sampleSt i) (uopSampleSt i) s

/-- SAMPLE.IS i (R123): RAW1 is not written. -/
def uopSampleIs (i : SbIdx) (c : UopCtx) (s : State) : Flow Unit :=
  (checkEntry c i .is s).bind fun _ c s => sampleOne c i s

/-- SAMPLE.IS i (R123), run whole. -/
def execSampleIs (i : SbIdx) (s : State) : Host.Outcome State Fault Refusal :=
  runUop (.sampleIs i) (uopSampleIs i) s

end Sys2Proof.Machine
end

