-- ==== Sys2Proof/Machine/Dispatch.lean ====
section
/-! DEFINITION. One arm per operation of L1SD, each a call of its meaning. -/

namespace Sys2Proof.Machine

def exec (i : Instr) (s : State) : Host.Outcome State Fault Refusal :=
  match i with
  | .createSbMono sb => Sys2Proof.Machine.execCreateSbMono sb s
  | .createSbSt sb => Sys2Proof.Machine.execCreateSbSt sb s
  | .createSbIs sb => Sys2Proof.Machine.execCreateSbIs sb s
  | .allocMono sb => Sys2Proof.Machine.execAllocMono sb s
  | .allocSt sb => Sys2Proof.Machine.execAllocSt sb s
  | .allocIs sb => Sys2Proof.Machine.execAllocIs sb s
  | .scfsiMono sb => Sys2Proof.Machine.execScfsiMono sb s
  | .scfsiSt sb => Sys2Proof.Machine.execScfsiSt sb s
  | .scfsiIs sb => Sys2Proof.Machine.execScfsiIs sb s
  | .scfMono sb => Sys2Proof.Machine.execScfMono sb s
  | .scfSt sb => Sys2Proof.Machine.execScfSt sb s
  | .scfIs sb => Sys2Proof.Machine.execScfIs sb s
  | .sampleMono sb => Sys2Proof.Machine.execSampleMono sb s
  | .sampleSt sb => Sys2Proof.Machine.execSampleSt sb s
  | .sampleIs sb => Sys2Proof.Machine.execSampleIs sb s
  | .putMono sb => Sys2Proof.Machine.execPutMono sb s
  | .putSt sb => Sys2Proof.Machine.execPutSt sb s
  | .putIs sb => Sys2Proof.Machine.execPutIs sb s
  | .synthA => Sys2Proof.Machine.execSynthA s
  | .synthB => Sys2Proof.Machine.execSynthB s
  | .cfg crc sel => Sys2Proof.Machine.execCfg crc sel s
  | .decode => Sys2Proof.Machine.execDecode s

end Sys2Proof.Machine
end

