-- ==== Sys2Proof/Machine/Sequencer.lean ====
section
/-! DEFINITION. The frame sequencer: which uop SEQ names, and where SEQ goes when that uop has completed
(spec/43_frame_sequencer.md R163 to R174). Between steps SEQ names the next uop to issue
(10_state.md R36; log 9). -/

namespace Sys2Proof.Machine

/-- BUSY (10_state.md R22): FSM is INIT, ALLOCATE, SCALESELECT, SCALEFACTORS or SAMPLELOOP. -/
def Fsm.isBusy : Fsm → Bool
  | .init | .allocate | .scaleSelect | .scaleFactors | .sampleLoop => true
  | .idle | .done | .error => false

/-- STATUS.BUSY. -/
def State.busy (s : State) : Bool := s.fsm.isBusy

/-- `VarOf(i)` (R163). -/
def varOfSubband (mode : ChMode) (b : BitVec 6) (i : SbIdx) : Variant :=
  match mode with
  | .mono => .mono
  | .stereo => .st
  | .dualChannel => .st
  | .jointStereo => if i.toNat < b.toNat then .st else .is

/-- `CREATE_SB.v i`. -/
def createSbInstr : Variant → SbIdx → Instr
  | .mono, i => .createSbMono i
  | .st, i => .createSbSt i
  | .is, i => .createSbIs i

/-- `ALLOC.v i`. -/
def allocInstr : Variant → SbIdx → Instr
  | .mono, i => .allocMono i
  | .st, i => .allocSt i
  | .is, i => .allocIs i

/-- `SCFSI.v i`. -/
def scfsiInstr : Variant → SbIdx → Instr
  | .mono, i => .scfsiMono i
  | .st, i => .scfsiSt i
  | .is, i => .scfsiIs i

/-- `SCF.v i`. -/
def scfInstr : Variant → SbIdx → Instr
  | .mono, i => .scfMono i
  | .st, i => .scfSt i
  | .is, i => .scfIs i

/-- `SAMPLE.v i`. -/
def sampleInstr : Variant → SbIdx → Instr
  | .mono, i => .sampleMono i
  | .st, i => .sampleSt i
  | .is, i => .sampleIs i

/-- `PUT.v i`. -/
def putInstr : Variant → SbIdx → Instr
  | .mono, i => .putMono i
  | .st, i => .putSt i
  | .is, i => .putIs i

/-- `VarOf(SEQ_I)` of the current frame. -/
def State.seqVar (s : State) : Variant := varOfSubband s.mode s.b s.seqI

/-- The uop that SEQ names (R164), none where no frame is in progress. -/
def State.nextUop (s : State) : Option Instr :=
  match s.fsm with
  | .init => some (createSbInstr s.seqVar s.seqI)
  | .allocate => some (allocInstr s.seqVar s.seqI)
  | .scaleSelect => some (scfsiInstr s.seqVar s.seqI)
  | .scaleFactors => some (scfInstr s.seqVar s.seqI)
  | .sampleLoop =>
    match s.seqPh with
    | .read => some (sampleInstr s.seqVar s.seqI)
    | .put => some (putInstr s.seqVar s.seqI)
    | .synA => some .synthA
    | .synB => some .synthB
  | .idle => none
  | .done => none
  | .error => none

/-- SEQ_I is the frame's last subband, N - 1. -/
def State.atLastSubband (s : State) : Bool := s.n.toNat ≤ s.seqI.toNat + 1

/-- Filter B is synthesized in this frame (R173): SEL = Both and MODE ≠ Mono. -/
def State.synthesizesB (s : State) : Bool := s.sel == .both && s.mode != .mono

/-- The next subband of the same loop. -/
def State.nextSubband (s : State) : State := { s with seqI := s.seqI + 1#5 }

/-- The end of SCALESELECT (R164, R167, R169): the guard decides between SCALEFACTORS and DONE. -/
def State.passGuard (s : State) : State :=
  if s.guardEval then { s with guard := true, fsm := .scaleFactors, seqI := 0#5 }
  else { s with guard := false, fsm := .done }

/-- The end of an inner pass, after the last SYNTH (R164, R171): another pass unless WREADY, then the
granule is counted, and the read pass repeats unless RREADY. -/
def State.endPass (s : State) : State :=
  if s.wready = false then { s with seqPh := .put, seqI := 0#5 }
  else if s.rready = false then { s with seqG := s.seqG + 1#4, seqPh := .read, seqI := 0#5 }
  else { s with seqG := s.seqG + 1#4, fsm := .done }

/-- SEQ within SAMPLELOOP, after the uop it named has completed (R164, R171, R173). -/
def State.advanceLoop (s : State) : State :=
  match s.seqPh with
  | .read => if s.atLastSubband then { s with seqPh := .put, seqI := 0#5 } else s.nextSubband
  | .put => if s.atLastSubband then { s with seqPh := .synA } else s.nextSubband
  | .synA => if s.synthesizesB then { s with seqPh := .synB } else s.endPass
  | .synB => s.endPass

/-- SEQ after the uop it named has completed (R164). -/
def State.advance (s : State) : State :=
  match s.fsm with
  | .init =>
    if s.atLastSubband then { s with fsm := .allocate, seqI := 0#5 } else s.nextSubband
  | .allocate =>
    if s.atLastSubband then { s with fsm := .scaleSelect, seqI := 0#5 } else s.nextSubband
  | .scaleSelect => if s.atLastSubband then s.passGuard else s.nextSubband
  | .scaleFactors =>
    if s.atLastSubband then
      { s with fsm := .sampleLoop, seqG := 0#4, seqPh := .read, seqI := 0#5 }
    else s.nextSubband
  | .sampleLoop => s.advanceLoop
  | .idle => s
  | .done => s
  | .error => s

/-- A uop that faulted, or that has not ended, leaves SEQ where it is (R164, 60_exceptions.md R204, R216);
one that completed moves it, in the same step (log 9). -/
def State.afterUop (s : State) : State :=
  if s.outstanding.isSome || s.inFlight.isSome then s else s.advance

end Sys2Proof.Machine
end

