-- ==== Sys2Proof/Machine/Issue.lean ====
section
/-! DEFINITION. How an operation comes to run: the host's signals before a step, a word on the uop bus, a
word on CMD, the sequencer's next uop, reset and waiting (spec/43_frame_sequencer.md R164, R176;
spec/60_exceptions.md R216; spec/70_reset_and_hazards.md R240). -/

namespace Sys2Proof.Machine

/-- The host's signals at this step, and the grain from here on: the next entry of `inputs`, or, at its end,
those that stand (log 6). -/
def State.sampleInputs (s : State) : State :=
  match s.inputs with
  | [] => s
  | x :: rest =>
    { s with
      pins := x.pins, inputs := rest, budget := x.budget
      br := { s.br with cursor := x.seek.getD s.br.cursor } }

/-- The offered command word is taken: the host need hold it no longer (43_frame_sequencer.md R176; that the
accepting step takes it is log 6). -/
def State.takeCmd (s : State) : State := { s with pins := { s.pins with cmd := none } }

/-- The directly driven uop word is taken. -/
def State.takeUop (s : State) : State := { s with pins := { s.pins with uop := none } }

/-! ## Uops, whole and in part -/

/-- The body of a uop, the part of its meaning that its whole run and its run in parts share. The host
commands are no uops: they issue no transaction and have no parts. -/
def uopBody : Instr → UopCtx → State → Flow Unit
  | .createSbMono i => uopCreateSbMono i
  | .createSbSt i => uopCreateSbSt i
  | .createSbIs i => uopCreateSbIs i
  | .allocMono i => uopAllocMono i
  | .allocSt i => uopAllocSt i
  | .allocIs i => uopAllocIs i
  | .scfsiMono i => uopScfsiMono i
  | .scfsiSt i => uopScfsiSt i
  | .scfsiIs i => uopScfsiIs i
  | .scfMono i => uopScfMono i
  | .scfSt i => uopScfSt i
  | .scfIs i => uopScfIs i
  | .sampleMono i => uopSampleMono i
  | .sampleSt i => uopSampleSt i
  | .sampleIs i => uopSampleIs i
  | .putMono i => uopPutMono i
  | .putSt i => uopPutSt i
  | .putIs i => uopPutIs i
  | .synthA => uopSynthA
  | .synthB => uopSynthB
  | .cfg _ _ => fun c s => .done () c s
  | .decode => fun c s => .done () c s

/-- The completed transactions of the uop that stands between two of its transactions. -/
def State.latched (s : State) : List Event :=
  match s.inFlight with
  | none => []
  | some f => f.latched

/-- What a uop knows of itself where a step takes it on: its completed transactions, and the grain, which allows
at least one more, so that no frame waits but for a collaborator (70_reset_and_hazards.md R257, R258, log 9). -/
def State.uopCtx (s : State) (w : Word) : UopCtx :=
  { word := w, replay := s.latched, budget := s.budget.map (· + 1) }

/-- The uop i taken on from the transactions it has completed, for as many more as this step's grain allows: to
its end, or to where it stands before its next transaction. `driven` is its word if it was driven directly. -/
def State.partUop (s : State) (driven : Option Word) (i : Instr) : State :=
  let body := uopBody i (s.uopCtx (encode i)) s
  let t := body.settle s
  match body with
  | .pause _ =>
    { t with
      inFlight := some { driven := driven, latched := s.latched ++ t.trace.drop s.trace.length } }
  | .done _ _ _ => { t with inFlight := none }
  | .stop _ => { t with inFlight := none }
  | .hang _ _ => { t with inFlight := none }

/-- No uop has begun, and the step's grain is a whole uop. -/
def State.wholeUop (s : State) : Bool := s.inFlight.isNone && s.budget.isNone

/-- A word on the uop bus (30_encoding.md R90): a legal one runs, whole or in part by the step's grain, every
other faults ILLEGAL_UOP. -/
def issueWord (driven : Option Word) (w : Word) (s : State) : Host.Outcome State Fault Refusal :=
  match decodeUop w with
  | some i => if s.wholeUop then exec i s else .next (s.partUop driven i)
  | none => .next (s.uopFault (UopCtx.fresh w) .illegalUop)

/-! ## What a step does -/

/-- A word accepted on CMD (30_encoding.md R91): a legal one runs, every other faults ILLEGAL_CMD. -/
def acceptWord (w : Word) (s : State) : Host.Outcome State Fault Refusal :=
  match decodeCmd w with
  | some i => exec i s
  | none => .next (s.cmdFault .illegalCmd w)

/-- A next state, changed by f. -/
def mapNext (f : State → State) (o : Host.Outcome State Fault Refusal) :
    Host.Outcome State Fault Refusal :=
  match o with
  | .next s => .next (f s)
  | .fault r => .fault r
  | .refused r => .refused r

/-- The sequencer issues the word of the uop that SEQ names, and moves SEQ when it has completed
(43_frame_sequencer.md R164). -/
def issueNext (u : Instr) (s : State) : Host.Outcome State Fault Refusal :=
  mapNext State.afterUop (issueWord none (encode u) s)

/-- No frame is in progress (43_frame_sequencer.md R176): an offered word is accepted, and without one
L1SD waits. -/
def acceptOrIdle (s : State) : Host.Outcome State Fault Refusal :=
  match s.pins.cmd with
  | some w => acceptWord w s.takeCmd
  | none => .next s

/-- The directly driven uop word to run: the one that has begun, else the one on the bus, but none in the
error state, where no operation runs (60_exceptions.md R207; log 7). -/
def State.drivenWord (s : State) : Option Word :=
  match s.inFlight with
  | some f => f.driven
  | none => if s.fsm = .error then none else s.pins.uop

/-- A directly driven uop word runs; it leaves the bus when it begins (log 7). -/
def driveWord (w : Word) (s : State) : Host.Outcome State Fault Refusal :=
  issueWord (some w) w (if s.inFlight.isNone then s.takeUop else s)

/-- Nothing is outstanding and RST is not asserted: a directly driven uop word runs (log 7), else the
sequencer's next uop while BUSY, else a host command. A driven uop that stands between two of its
transactions goes on before any command is accepted, also where BUSY = 0 (DESIGN CHOICE, log 19). -/
def runReady (s : State) : Host.Outcome State Fault Refusal :=
  match s.drivenWord with
  | some w => driveWord w s
  | none =>
    match s.nextUop with
    | some u => issueNext u s
    | none => acceptOrIdle s

/-- A transaction is outstanding: L1SD waits, for ever if no host input is left (60_exceptions.md R216;
log 10). No command is accepted meanwhile, also where a uop driven directly in IDLE or DONE waits and
CMD_READY reads 1 (DESIGN CHOICE, log 19). -/
def waitOutstanding (s : State) : Host.Outcome State Fault Refusal :=
  match s.inputs with
  | [] => .fault .stuck
  | _ :: _ => .next s

/-- One step, with the host's signals sampled. RST comes first (70_reset_and_hazards.md R240); then an
outstanding transaction holds everything else, commands included (60_exceptions.md R216; outside a frame
DESIGN CHOICE, log 19). -/
def runSampled (s : State) : Host.Outcome State Fault Refusal :=
  if s.pins.rst then .next s.applyReset
  else
    match s.outstanding with
    | some _ => waitOutstanding s
    | none => runReady s

/-- A state whose next step finds the word w on the port it is legal on and runs it whole: nothing
outstanding or begun, RST not asserted, no frame in progress if w is a host command (OPC 8 or 9), no ERROR
if it is not, and the word offered on CMD or driven on the uop bus (log 8). -/
def State.placeWord (s : State) (w : Word) : State :=
  let isCmd := opcOf w = 8#4 ∨ opcOf w = 9#4
  { s with
    outstanding := none
    inFlight := none
    fsm := if (isCmd ∧ s.busy) ∨ (¬ isCmd ∧ s.fsm = .error) then .idle else s.fsm
    inputs :=
      { pins :=
          { rst := false
            cmd := if isCmd then some w else s.pins.cmd
            uop := if isCmd then none else some w
            hdr := s.pins.hdr }
        seek := none
        budget := none } :: s.inputs }

end Sys2Proof.Machine
end

