-- ==== Sys2Proof/Machine/Step.lean ====
section
/-! DEFINITION. One step of L1SD: one uop, or as many of its transactions as the grain allows, one
accepted command, one reset or one wait (log 9). -/

namespace Sys2Proof.Machine

/-- One step (70_reset_and_hazards.md R257: "one transaction, or one internal uop step, at a time"). -/
def step (s : State) : Host.Outcome State Fault Refusal := runSampled s.sampleInputs

/-- s with the word `w` (its low `nbits` bits) placed where the next step takes its operation from. -/
def State.withFetchWord (s : State) (nbits w : Nat) : State :=
  s.placeWord (BitVec.ofNat 16 (w % 2 ^ nbits))

end Sys2Proof.Machine
end

