-- ==== Sys2Proof/Machine/Registers.lean ====
section
/-! DEFINITION. What the host sees: the registers through `RegRead` (spec/10_state.md R21 to R25, R35),
and the outputs CMD_READY, DONE_O and ERROR_O (spec/43_frame_sequencer.md R176, spec/60_exceptions.md
R208). -/

namespace Sys2Proof.Machine

/-- SEL's code (10_state.md R23). -/
def Sel.code : Sel → BitVec 2
  | .both => 0#2
  | .leftOnly => 1#2
  | .rightOnly => 2#2

/-- MODE's code (30_encoding.md R93). -/
def ChMode.code : ChMode → BitVec 2
  | .stereo => 0#2
  | .jointStereo => 1#2
  | .dualChannel => 2#2
  | .mono => 3#2

/-- FSM's code (10_state.md R37). -/
def Fsm.code : Fsm → BitVec 3
  | .idle => 0#3
  | .init => 1#3
  | .allocate => 2#3
  | .scaleSelect => 3#3
  | .scaleFactors => 4#3
  | .sampleLoop => 5#3
  | .done => 6#3
  | .error => 7#3

/-- CAUSE's code (60_exceptions.md R200). -/
def Cause.code : Cause → BitVec 4
  | .none => 0#4
  | .bitstreamExhausted => 1#4
  | .collaboratorError => 2#4
  | .configInvalid => 3#4
  | .notCreated => 4#4
  | .illegalCmd => 5#4
  | .illegalUop => 6#4

/-- ERRSRC's bit (10_state.md R25). -/
def ErrSrc.code : ErrSrc → BitVec 1
  | .uop => 0#1
  | .hostCommand => 1#1

/-- DONE_O = STATUS.DONE (60_exceptions.md R208). -/
def State.doneO (s : State) : Bool := s.fsm == .done

/-- ERROR_O = STATUS.ERROR (60_exceptions.md R208). -/
def State.errorO (s : State) : Bool := s.fsm == .error

/-- CMD_READY = not BUSY, and 0 while RST is asserted (43_frame_sequencer.md R176,
70_reset_and_hazards.md R240). DESIGN CHOICE (log 19): it stays so while a uop that was driven directly in
IDLE or DONE has not ended, where no command is accepted although it reads 1. -/
def State.cmdReady (s : State) : Bool := !s.busy && !s.pins.rst

/-- STATUS (10_state.md R22). -/
def State.statusReg (s : State) : BitVec 32 :=
  0#16 ++ s.seqG ++ BitVec.ofBool s.guard ++ s.fsm.code ++ s.cause.code ++ BitVec.ofBool s.errorO
    ++ BitVec.ofBool s.doneO ++ BitVec.ofBool s.busy ++ BitVec.ofBool s.created

/-- CONFIG (10_state.md R23). -/
def State.configReg (s : State) : BitVec 32 := 0#29 ++ BitVec.ofBool s.crcPresent ++ s.sel.code

/-- FRAME (10_state.md R24). -/
def State.frameReg (s : State) : BitVec 32 := 0#18 ++ s.b ++ s.n ++ s.mode.code

/-- ERRINFO (10_state.md R25). -/
def State.errinfoReg (s : State) : BitVec 32 := 0#11 ++ s.errGran ++ s.errSrc.code ++ s.errWord

/-- `RegRead(r)` (10_state.md R21): no register read is served while RST is asserted
(70_reset_and_hazards.md R240); 5, 6 and 7 read as 0. While a uop has not ended every register reads as it
did before that uop (20_memory.md R68, log 11), since the uop has written none. -/
def State.regRead (s : State) (r : BitVec 3) : Option (BitVec 32) :=
  if s.pins.rst then none
  else some <|
    if r = 0#3 then s.statusReg
    else if r = 1#3 then s.configReg
    else if r = 2#3 then s.frameReg
    else if r = 3#3 then s.errinfoReg
    else if r = 4#3 then s.bitcnt
    else 0#32

end Sys2Proof.Machine
end

