-- ==== Sys2Proof/Safety.lean ====
section
/-! DEFINITION. What counts as a sound run of L1SD, in the terms the statements use: the constant IDX, the
sequencer's frame invariant, the schedule of a frame, its bit accounting, and which operation can raise
which cause (spec/10_state.md R28 to R31; spec/30_encoding.md R85; spec/41_subband_ops.md R124;
spec/43_frame_sequencer.md R163 to R177; spec/60_exceptions.md R202). -/

namespace Sys2Proof.Machine

/-! ## The register file -/

/-- `IDX = i` in every entry (10_state.md R28: "constant = i"). -/
def State.IdxConstant (s : State) : Prop := ∀ i : SbIdx, (s.entry i).idx = i

/-- The requantization fields a channel holds for its allocation code (41_subband_ops.md R111,
10_state.md R29): a zero code leaves W, FAC, OFF and RAW at their creation values, a nonzero one gives
W = code + 1 and the ROM words, and RAW is a W-bit number. -/
def Chan.Allocated (c : Chan) (v : OffsetVariant) : Prop :=
  (c.a = 0#4 → c.w = 0#5 ∧ c.fac = 0#32 ∧ c.off = 0#32) ∧
  (c.a ≠ 0#4 → c.w.toNat = c.a.toNat + 1 ∧ c.fac = factorRom c.a ∧ c.off = offsetRom v c.a) ∧
  c.raw.toNat < 2 ^ c.w.toNat

/-- The scale factor a channel holds: its creation value, or the ROM's word for its code
(41_subband_ops.md R116). -/
def Chan.Scaled (c : Chan) : Prop :=
  (c.scfi = 0#6 ∧ c.scf = 0#32) ∨ c.scf = scfRom c.scfi

/-- The fields one entry of variant v may hold (10_state.md R29, R31): a MONO entry never touches
channel 1, an IS entry only its scale factor. -/
def SbEntry.FieldsOf (e : SbEntry) (p : OffsetVariant) : Prop :=
  e.ch0.Allocated p ∧ e.ch0.Scaled ∧ e.ch1.Allocated p ∧ e.ch1.Scaled ∧
  (e.var = .mono → e.ch1 = Chan.zero) ∧
  (e.var = .is → e.ch1.a = 0#4)

/-! ## The frame in progress -/

/-- Entry i is what the sequencer has made it for this frame (43_frame_sequencer.md R163). -/
def State.OwnEntry (s : State) (i : SbIdx) : Prop :=
  (s.entry i).valid = true ∧ (s.entry i).var = varOfSubband s.mode s.b i ∧
  (s.entry i).FieldsOf s.params.offsetVariant

/-- How many entries of the frame exist: those below SEQ_I in INIT, all N later
(43_frame_sequencer.md R163). -/
def State.createdCount (s : State) : Nat :=
  match s.fsm with
  | .init => s.seqI.toNat
  | _ => s.n.toNat

/-- Entry i has not had its ALLOC yet (43_frame_sequencer.md R164). -/
def State.BeforeAlloc (s : State) (i : SbIdx) : Prop :=
  s.fsm = .init ∨ (s.fsm = .allocate ∧ s.seqI.toNat ≤ i.toNat)

/-- Whether entry i has had its SAMPLE of the granule in progress (43_frame_sequencer.md R171). -/
def State.sampledThisGranule (s : State) (i : SbIdx) : Bool :=
  s.fsm == .sampleLoop && (s.seqPh != .read || decide (i.toNat < s.seqI.toNat))

/-- GCNT of entry i: SEQ_G, and one more, modulo 12, once it has had the granule's SAMPLE
(41_subband_ops.md R124). -/
def State.granulesRead (s : State) (i : SbIdx) : Nat :=
  (s.seqG.toNat + (s.sampledThisGranule i).toNat) % 12

/-- The registers of a frame in progress (43_frame_sequencer.md R162 to R172): a valid header; SEQ_I
below N; entries 0 to createdCount - 1 the frame's own, as created until their ALLOC, in lockstep, the
others VALID = 0; SEQ_PH READ
and SEQ_G 0 outside SAMPLELOOP, SEQ_G below 12 in it; and what the flags must be where the sequencer
will read them. -/
structure State.FrameRegs (s : State) : Prop where
  header : frameValid s.mode s.n s.b = true
  index : s.seqI.toNat < s.n.toNat
  own : ∀ i : SbIdx, i.toNat < s.createdCount → s.OwnEntry i
  fresh : ∀ i : SbIdx, i.toNat < s.createdCount → s.BeforeAlloc i →
    s.entry i = SbEntry.created (varOfSubband s.mode s.b i) i
  rest : ∀ i : SbIdx, s.createdCount ≤ i.toNat → (s.entry i).valid = false
  lockstep : ∀ i : SbIdx, i.toNat < s.createdCount → (s.entry i).gcnt.toNat = s.granulesRead i
  outside : s.fsm ≠ .sampleLoop → s.seqPh = .read ∧ s.seqG = 0#4
  granule : s.seqG.toNat < 12
  guarded : (s.fsm = .scaleFactors ∨ s.fsm = .sampleLoop) → s.guard = true
  unguarded : (s.fsm = .init ∨ s.fsm = .allocate ∨ s.fsm = .scaleSelect) → s.guard = false
  readFlag : s.fsm = .sampleLoop → s.seqPh ≠ .read → s.rready = decide (s.seqG.toNat = 11)
  writeFlag : s.seqPh = .synA ∨ s.seqPh = .synB → s.wready = true ∧ s.seqI.toNat + 1 = s.n.toNat
  filterB : s.seqPh = .synB → s.synthesizesB = true

/-- The sequencer's invariant: while a frame is in progress and no transaction is outstanding, the frame's
registers are as the schedule has made them, also where a uop stands between two of its transactions. -/
def State.FrameInv (s : State) : Prop :=
  s.busy = true → s.outstanding = none → s.FrameRegs

/-- No directly driven word runs in the coming step, so that the sequencer alone issues uops (30_encoding.md
R90: "in mission mode"). -/
def State.Mission (s : State) : Prop := s.sampleInputs.drivenWord = none

/-! ## The schedule of a frame (43_frame_sequencer.md R164) -/

/-- Subbands 0 to n - 1 in ascending order. -/
def subbands (n : Nat) : List SbIdx := (List.range n).map (BitVec.ofNat 5)

/-- The uops of one granule: N SAMPLE, N PUT, SYNTH A, and SYNTH B where R173 allows. -/
def granuleSchedule (mode : ChMode) (b : BitVec 6) (n : Nat) (filterB : Bool) : List Instr :=
  (subbands n).map (fun i => sampleInstr (varOfSubband mode b i) i) ++
  (subbands n).map (fun i => putInstr (varOfSubband mode b i) i) ++
  [.synthA] ++ (if filterB then [.synthB] else [])

/-- The uops of a frame, in order (R164): CREATE_SB, ALLOC and SCFSI for every subband, then, where the
guard holds, SCF for every subband and twelve granules. -/
def frameSchedule (mode : ChMode) (b : BitVec 6) (n : Nat) (filterB guard : Bool) : List Instr :=
  (subbands n).map (fun i => createSbInstr (varOfSubband mode b i) i) ++
  (subbands n).map (fun i => allocInstr (varOfSubband mode b i) i) ++
  (subbands n).map (fun i => scfsiInstr (varOfSubband mode b i) i) ++
  (if guard then
    (subbands n).map (fun i => scfInstr (varOfSubband mode b i) i) ++
    (List.replicate 12 (granuleSchedule mode b n filterB)).flatten
  else [])

/-- The host is silent: no reset, no command, no driven uop, nothing to come, and every step a whole uop. -/
def State.HostSilent (s : State) : Prop :=
  s.inputs = [] ∧ s.pins.rst = false ∧ s.pins.cmd = none ∧ s.pins.uop = none ∧ s.budget = none

/-- Every transaction of the script completes. -/
def Script.Completes (x : Script Reply) : Prop := x.rest ≠ .never ∧ ∀ r ∈ x.queue, r ≠ .never

/-- Every GetBits completes. -/
def Script.Answers (x : Script BrReply) : Prop := x.rest = .answers ∧ ∀ r ∈ x.queue, r = .answers

/-! ## Bit accounting (30_encoding.md R85) -/

/-- Sample bits of a code: `w(a)`. -/
def bitsOfCode (a : BitVec 4) : Nat := if a = 0#4 then 0 else a.toNat + 1

/-- Whether a code is nonzero: `nz(a)`. -/
def nonzeroCode (a : BitVec 4) : Nat := if a = 0#4 then 0 else 1

/-- Allocation bits of an entry (R85). -/
def SbEntry.allocBits (e : SbEntry) : Nat := if e.var = .st then 8 else 4

/-- Scale-factor bits of an entry (R85). -/
def SbEntry.scfBits (e : SbEntry) : Nat :=
  match e.var with
  | .mono => 6 * nonzeroCode e.ch0.a
  | .st => 6 * nonzeroCode e.ch0.a + 6 * nonzeroCode e.ch1.a
  | .is => 12 * nonzeroCode e.ch0.a

/-- Sample bits of an entry in one granule (R85). -/
def SbEntry.sampleBits (e : SbEntry) : Nat :=
  match e.var with
  | .mono => bitsOfCode e.ch0.a
  | .st => bitsOfCode e.ch0.a + bitsOfCode e.ch1.a
  | .is => bitsOfCode e.ch0.a

/-- The sum of `f` over entries 0 to k - 1. -/
def State.sumEntries (s : State) (f : SbEntry → Nat) (k : Nat) : Nat :=
  ((subbands k).map fun i => f (s.entry i)).sum

/-- The bits a completed frame has consumed (R85): the allocation bits, and the rest where the guard
held. -/
def State.frameBits (s : State) : Nat :=
  let n := s.n.toNat
  s.sumEntries SbEntry.allocBits n +
    (if s.guard then s.sumEntries SbEntry.scfBits n + 12 * s.sumEntries SbEntry.sampleBits n else 0)

/-- The bits consumed at SEQ, before the uop it names (R80, R85). -/
def State.bitsSoFar (s : State) : Nat :=
  let n := s.n.toNat
  let i := s.seqI.toNat
  match s.fsm with
  | .allocate => s.sumEntries SbEntry.allocBits i
  | .scaleSelect => s.sumEntries SbEntry.allocBits n
  | .scaleFactors => s.sumEntries SbEntry.allocBits n + s.sumEntries SbEntry.scfBits i
  | .sampleLoop =>
    s.sumEntries SbEntry.allocBits n + s.sumEntries SbEntry.scfBits n +
    s.seqG.toNat * s.sumEntries SbEntry.sampleBits n +
    (if s.seqPh = .read then s.sumEntries SbEntry.sampleBits i
      else s.sumEntries SbEntry.sampleBits n)
  | .done => s.frameBits
  | _ => 0

/-- BITCNT counts exactly the fields of the frame before SEQ (10_state.md R35, 43_frame_sequencer.md R175), in a
frame in progress with no transaction outstanding, and at its end. Between two reads of one uop it counts
neither of them, for the uop has written no register (log 11). -/
def State.BitsAccounted (s : State) : Prop :=
  (s.busy = true ∧ s.outstanding = none) ∨ s.fsm = .done → s.bitcnt.toNat = s.bitsSoFar

/-! ## Causes (60_exceptions.md R202) -/

/-- Which operation can raise which cause (R202). COLLABORATOR_ERROR of an ALLOC needs CRC_PRESENT. -/
def possibleCauses (crcPresent : Bool) : Instr → List Cause
  | .createSbMono _ | .createSbSt _ | .createSbIs _ => []
  | .allocMono _ | .allocSt _ | .allocIs _ =>
    [.illegalUop, .bitstreamExhausted] ++ (if crcPresent then [.collaboratorError] else [])
  | .scfsiMono _ | .scfsiSt _ | .scfsiIs _ => [.illegalUop]
  | .scfMono _ | .scfSt _ | .scfIs _ => [.illegalUop, .bitstreamExhausted]
  | .sampleMono _ | .sampleSt _ | .sampleIs _ => [.illegalUop, .bitstreamExhausted]
  | .putMono _ | .putSt _ | .putIs _ => [.illegalUop, .collaboratorError]
  | .synthA | .synthB => [.collaboratorError]
  | .cfg _ _ => [.illegalCmd]
  | .decode => [.notCreated, .configInvalid]

/-- The bits a completed transaction has read. -/
def Event.bitsRead (e : Event) : Nat :=
  match e.txn, e.result with
  | .getBits n, .value _ => n
  | _, _ => 0

/-- The subband a uop names, if it names one (30_encoding.md R88). -/
def subbandOf : Instr → Option SbIdx
  | .createSbMono i | .createSbSt i | .createSbIs i => some i
  | .allocMono i | .allocSt i | .allocIs i => some i
  | .scfsiMono i | .scfsiSt i | .scfsiIs i => some i
  | .scfMono i | .scfSt i | .scfIs i => some i
  | .sampleMono i | .sampleSt i | .sampleIs i => some i
  | .putMono i | .putSt i | .putIs i => some i
  | .synthA | .synthB | .cfg _ _ | .decode => none

end Sys2Proof.Machine
end

