-- ==== Sys2Proof/Certificates/Slice0/Obligations.lean ====
section
/-! DEFINITION. The statements for the provers, one `def Obligations.<Name> : Prop` each, listed in
OBLIGATIONS.json. An update `{ s with … }` in a conclusion is the whole next state: what it does not
name is unchanged, so each such equation is its own frame. -/

namespace Sys2Proof.Machine

/-! ## Words the statements use -/

/-- `SB[i]` passes the execute checks of a uop of variant v (30_encoding.md R90). -/
def State.Names (s : State) (i : SbIdx) (v : Variant) : Prop :=
  (s.entry i).valid = true ∧ (s.entry i).var = v

/-- t is s after the uop u faulted at s (60_exceptions.md R204): FSM, CAUSE and ERRINFO are written, the
SB entries are unspecified (so `t.sb` and the model's counter of free values are whatever they are), where
the bit reader's cursor stands is unknown (70_reset_and_hazards.md R252), and nothing else changes. -/
def UopFaulted (s : State) (u : Instr) (cause : Cause) (t : State) : Prop :=
  t = { s with
    fsm := .error, cause := cause, errWord := encode u, errSrc := .uop, errGran := s.seqG
    sb := t.sb, freeCount := t.freeCount
    br := { s.br with cursor := t.br.cursor } }

/-- The outcome is a fault of u at s. -/
def FaultsAt (o : Host.Outcome State Fault Refusal) (s : State) (u : Instr) (cause : Cause) : Prop :=
  ∃ t, o = .next t ∧ UopFaulted s u cause t

/-- The next n-bit field of the stream. -/
def State.field (s : State) (n : Nat) : Nat := natOfBits (s.br.peek n)

/-- s after one CrcAdd of a that completed with r. -/
def State.crcDone (s : State) (a : BitVec 4) (r : Completion) : State :=
  { s with crc := s.crc.advance, trace := s.trace ++ [{ txn := .crcAdd a, result := r }] }

/-- s after one Inject or Synth on filter A that completed with r. -/
def State.aDone (s : State) (t : Txn) (r : Completion) : State :=
  { s with fa := s.fa.advance, trace := s.trace ++ [{ txn := t, result := r }] }

/-- s after one Inject or Synth on filter B that completed with r. -/
def State.bDone (s : State) (t : Txn) (r : Completion) : State :=
  { s with fb := s.fb.advance, trace := s.trace ++ [{ txn := t, result := r }] }

/-- A channel after ReadScf of code c (41_subband_ops.md R116). -/
def Chan.scaled (x : Chan) (c : BitVec 6) : Chan := { x with scfi := c, scf := scfRom c }

/-- A channel after a sample v. -/
def Chan.sampled (x : Chan) (v : Nat) : Chan := { x with raw := BitVec.ofNat 16 v }

/-- An entry and RREADY after GranuleStep, as 41_subband_ops.md R122 writes it. -/
def State.counted (s : State) (i : SbIdx) (e : SbEntry) : State :=
  if e.gcnt + 1#4 = 12#4 then { s.setEntry i { e with gcnt := 0#4 } with rready := true }
  else { s.setEntry i { e with gcnt := e.gcnt + 1#4 } with rready := false }

/-- A binary32 pattern that is neither an infinity nor a NaN. -/
def FiniteF32 (x : F32) : Prop := expOf x ≠ 255

/-- The rational number a finite pattern stands for (20_memory.md R64). -/
def valueF32 (x : F32) : ℚ :=
  (if signOf x then -1 else 1) * (significand x : ℚ) * 2 ^ scale x / 2 ^ 149

/-- r is a finite pattern nearest to q, and the even one of two nearest (00_scope.md R9). -/
def NearestEven (r : F32) (q : ℚ) : Prop :=
  ∀ z : F32, FiniteF32 z →
    |valueF32 r - q| ≤ |valueF32 z - q| ∧
    (|valueF32 r - q| = |valueF32 z - q| → valueF32 z ≠ valueF32 r → significand r % 2 = 0)

/-- s with another command word offered, or none. -/
def State.offer (s : State) (c : Option Word) : State := { s with pins := { s.pins with cmd := c } }

/-- s with other header signals. -/
def State.withHdr (s : State) (h : Header) : State := { s with pins := { s.pins with hdr := h } }

end Sys2Proof.Machine

open Sys2Proof Sys2Proof.Machine

/-! ## Encoding -/

/-- R86 to R92: the decoder reads back every bit the encoder writes, on the operation's own port, and
the other port refuses the word. -/
def Obligations.DecodeEncodeRoundTrip : Prop :=
  ∀ i : Instr, i.wellFormed = true →
    decodeWord (encode i) = some i ∧
    (i.port = .uopBus → decodeUop (encode i) = some i ∧ decodeCmd (encode i) = none) ∧
    (i.port = .cmd → decodeCmd (encode i) = some i ∧ decodeUop (encode i) = none)

/-- R86 to R91: a word that decodes is the encoding of what it decodes to, so every legal word has one
meaning and no reserved bit is ignored. -/
def Obligations.DecodedWordIsItsEncoding : Prop :=
  ∀ (w : Word) (i : Instr), decodeWord w = some i → i.wellFormed = true ∧ encode i = w

/-- R90's decode verdict on the uop bus, its four conditions written on the bits of the word; every other
word faults ILLEGAL_UOP before any transaction. That the bit reader's cursor then stays where it is, is the
MODEL's reading (log 20). -/
def Obligations.UopWordLegalIff : Prop :=
  ∀ w : Word,
    ((decodeUop w).isSome = true ↔
      (1 ≤ (w.extractLsb' 12 4).toNat ∧ (w.extractLsb' 12 4).toNat ≤ 7) ∧
      w.extractLsb' 5 5 = 0#5 ∧
      ((w.extractLsb' 12 4).toNat ≤ 6 → w.extractLsb' 10 2 ≠ 3#2) ∧
      ((w.extractLsb' 12 4).toNat = 7 → w.extractLsb' 10 2 = 0#2 ∧ w.extractLsb' 1 4 = 0#4)) ∧
    (decodeUop w = none → ∀ (s : State) (d : Option Word), ∃ t, issueWord d w s = .next t ∧
      t = { s with
        fsm := .error, cause := .illegalUop, errWord := w, errSrc := .uop, errGran := s.seqG
        sb := t.sb, freeCount := t.freeCount })

/-- R91: the decode verdict on CMD, and ILLEGAL_CMD for every other word, which writes nothing but FSM,
CAUSE and ERRINFO. -/
def Obligations.CommandWordVerdict : Prop :=
  ∀ w : Word,
    ((decodeCmd w).isSome = true ↔
      (w.extractLsb' 12 4 = 8#4 ∧ w.extractLsb' 3 9 = 0#9 ∧ w.extractLsb' 0 2 ≠ 3#2) ∨
      w = 0x9000#16) ∧
    (decodeCmd w = none → ∀ s : State, acceptWord w s =
      .next { s with
        fsm := .error, cause := .illegalCmd, errWord := w, errSrc := .hostCommand
        errGran := s.seqG })

/-- The example words of R95 and of 95_test_vectors.md §2.1 decode to the operations they stand for. -/
def Obligations.SpecWordsDecode : Prop :=
  decodeUop 0x1807#16 = some (.createSbIs 7#5) ∧
  decodeUop 0x2405#16 = some (.allocSt 5#5) ∧
  decodeUop 0x3403#16 = some (.scfsiSt 3#5) ∧
  decodeUop 0x681F#16 = some (.putIs 31#5) ∧
  decodeUop 0x7001#16 = some .synthB ∧
  decodeCmd 0x8006#16 = some (.cfg true 2#2) ∧
  decodeCmd 0x9000#16 = some .decode ∧
  decodeUop 0x1C00#16 = none ∧ decodeUop 0x7400#16 = none ∧ decodeCmd 0x8003#16 = none

/-! ## Steps -/

/-- R164: while a frame is in progress, with nothing outstanding, RST not asserted and no directly driven
word, a step issues the word of the uop SEQ names, and the datapath decodes it to that uop. The MODEL's
choice (log 9, the grain of a step): where no grain is set the step runs the uop whole, and otherwise as
far as the grain allows (`partUop`), and SEQ moves in the very step in which the uop completes
(`afterUop`). -/
def Obligations.SequencerStepRunsNamedUop : Prop :=
  ∀ (s : State) (u : Instr), s.sampleInputs.pins.rst = false → s.outstanding = none → s.Mission →
    s.nextUop = some u →
    decodeUop (encode u) = some u ∧
    (s.inFlight = none → s.sampleInputs.budget = none →
      step s = mapNext State.afterUop (exec u s.sampleInputs)) ∧
    (s.inFlight ≠ none ∨ s.sampleInputs.budget ≠ none →
      step s = .next (s.sampleInputs.partUop none u).afterUop)

/-- R176: with no frame in progress, an offered word that decodes to a host command is accepted: the step
is that command's meaning. That the accepting step also takes the word off CMD (`takeCmd`) is the MODEL's
choice (log 6). -/
def Obligations.AcceptedCommandRuns : Prop :=
  ∀ (s : State) (w : Word) (i : Instr), s.sampleInputs.pins.rst = false → s.outstanding = none →
    s.Mission → s.busy = false → s.sampleInputs.pins.cmd = some w → decodeCmd w = some i →
    step s = exec i s.sampleInputs.takeCmd

/-- R90 and R207: outside the error state a word driven on the uop bus directly runs as it decodes; in the
error state no operation runs, and the step accepts an offered command or waits, as without the word. How
the driven word shares the bus, that it leaves the bus when it begins and that SEQ does not move for it, is
the MODEL's choice (log 7). -/
def Obligations.DrivenUopWordRuns : Prop :=
  ∀ (s : State) (w : Word), s.sampleInputs.pins.rst = false → s.outstanding = none →
    s.inFlight = none → s.sampleInputs.pins.uop = some w →
    (s.fsm ≠ .error → s.sampleInputs.budget = none → ∀ i, decodeUop w = some i →
      step s = exec i s.sampleInputs.takeUop) ∧
    (s.fsm = .error → s.sampleInputs.pins.cmd = none → step s = .next s.sampleInputs) ∧
    (s.fsm = .error → ∀ c, s.sampleInputs.pins.cmd = some c →
      step s = acceptWord c s.sampleInputs.takeCmd)

/-- Log 8 (the model's choice): a word of the opcode table placed in the state after reset is the first
operation to run, from the reset state itself. -/
def Obligations.PlacedWordRunsFirst : Prop :=
  ∀ (w : Nat) (i : Instr), decodeTableWord 16 w = some i →
    step (State.reset.withFetchWord 16 w) = exec i State.reset

/-- R178 with R176: while BUSY = 1 no command is accepted: whatever word is offered, the step does the
same and the offer stands. -/
def Obligations.BusyIgnoresCommands : Prop :=
  ∀ (s : State) (c : Option Word), s.busy = true → s.inputs = [] →
    step (s.offer c) = mapNext (fun t => t.offer c) (step s)

/-- R176, R215: with no frame in progress and nothing offered, L1SD waits and all state survives. R216
(and log 10, the model's choice of the stop): while a transaction is outstanding and RST is not asserted,
no register changes, and the run stops as `stuck` only where no host input is left. That an offered command waits then outside a
frame too is the MODEL's choice (log 19). -/
def Obligations.WaitsWhenIdleOrOutstanding : Prop :=
  ∀ s : State, s.sampleInputs.pins.rst = false →
    (s.outstanding = none → s.Mission → s.busy = false → s.sampleInputs.pins.cmd = none →
      step s = .next s.sampleInputs) ∧
    (s.outstanding ≠ none → s.inputs.length ≤ 1 → step s = .fault .stuck) ∧
    (s.outstanding ≠ none → 2 ≤ s.inputs.length → step s = .next s.sampleInputs)

/-! ## Reset -/

/-- R240 to R242: RST gives every register whose reset value the spec states that value, leaves no
transaction outstanding and no uop begun, serves no register read, accepts no command, and reaches no
collaborator: a uop between two of its transactions is dropped with the next never issued, and the trace
stands. That an abandoned transaction is recorded in the trace as abandoned is the MODEL's choice
(log 15). -/
def Obligations.RstGivesResetRegisters : Prop :=
  ∀ s : State, s.sampleInputs.pins.rst = true → ∃ t, step s = .next t ∧
    t.created = false ∧ t.fsm = .idle ∧ t.cause = .none ∧ t.guard = false ∧
    t.seqI = 0#5 ∧ t.seqPh = .read ∧ t.seqG = 0#4 ∧ t.sel = .both ∧ t.crcPresent = false ∧
    t.mode = .stereo ∧ t.n = 0#6 ∧ t.b = 0#6 ∧
    t.errWord = 0#16 ∧ t.errSrc = .uop ∧ t.errGran = 0#4 ∧ t.bitcnt = 0#32 ∧
    t.rready = false ∧ t.wready = false ∧
    (∀ i, (t.entry i).valid = false ∧ (t.entry i).idx = i) ∧
    t.outstanding = none ∧ t.inFlight = none ∧ (∀ r, t.regRead r = none) ∧ t.cmdReady = false ∧
    t.br.bits = s.br.bits ∧ t.br.replies = s.br.replies ∧
    t.crc = s.crc ∧ t.fa = s.fa ∧ t.fb = s.fb ∧ t.params = s.params ∧
    (s.outstanding = none → t.trace = s.trace ∧ t.br = s.sampleInputs.br) ∧
    (∀ x, s.outstanding = some x → t.trace = s.trace ++ [{ txn := x, result := .abandoned }])

/-- R241 and V-CMD-1: in the state after reset the five registers and the three reserved numbers read 0,
no entry is VALID, IDX is the index, and the outputs are CMD_READY = 1, DONE_O = 0, ERROR_O = 0. -/
def Obligations.ResetReadsZero : Prop :=
  (∀ r, State.reset.regRead r = some 0#32) ∧
  (∀ i, (State.reset.entry i).valid = false ∧ (State.reset.entry i).idx = i) ∧
  State.reset.cmdReady = true ∧ State.reset.doneO = false ∧ State.reset.errorO = false

/-! ## The ROMs -/

/-- R50 to R52: the ROMs hold what their formulas round to. FACTOR_ROM[a] and the two variants of
OFFSET_ROM[a] are the binary32 values nearest to the formulas (STEPWISE rounds its inner quotient first),
SCF_ROM[c] the one nearest to 2^(1 - c/3), and the reserved entries are +0.0. -/
def Obligations.RomsHoldTheirFormulas : Prop :=
  (∀ a : BitVec 4, 1 ≤ a.toNat → a.toNat ≤ 14 →
    let p : ℚ := 2 ^ (a.toNat + 1)
    (FiniteF32 (factorRom a) ∧ NearestEven (factorRom a) (2 / (p - 1))) ∧
    (FiniteF32 (offsetRom .exact a) ∧ NearestEven (offsetRom .exact a) ((2 - p) / (p - 1))) ∧
    (∃ q : F32, FiniteF32 q ∧ NearestEven q (p / (p - 1)) ∧ FiniteF32 (offsetRom .stepwise a) ∧
      NearestEven (offsetRom .stepwise a) ((1 / 2 ^ a.toNat - 1) * valueF32 q))) ∧
  (∀ a : BitVec 4, a = 0#4 ∨ a = 15#4 →
    factorRom a = 0x00000000#32 ∧ ∀ v, offsetRom v a = 0x00000000#32) ∧
  (∀ c : BitVec 6, c ≠ 63#6 → FiniteF32 (scfRom c) ∧
    ∀ z : F32, FiniteF32 z →
      |(valueF32 (scfRom c) : ℝ) - 2 ^ (1 - (c.toNat : ℝ) / 3)| ≤
        |(valueF32 z : ℝ) - 2 ^ (1 - (c.toNat : ℝ) / 3)|) ∧
  scfRom 63#6 = 0x00000000#32 ∧ scfRom 3#6 = 0x3F800000#32

/-! ## Subband uops -/

/-- R110, for the three variants: the encoding, every field of SB[i] at its creation value whatever it
held, nothing else, no check and no transaction; VAR = 3 and a nonzero Z do not decode. -/
def Obligations.CreateSbWritesEveryField : Prop :=
  ∀ (i : SbIdx) (s : State),
    (encode (.createSbMono i) = 0x1000#16 ||| i.setWidth 16 ∧
      encode (.createSbSt i) = 0x1400#16 ||| i.setWidth 16 ∧
      encode (.createSbIs i) = 0x1800#16 ||| i.setWidth 16 ∧
      ∀ (v : BitVec 2) (z : BitVec 5), v = 3#2 ∨ z ≠ 0#5 →
        decodeUop (0x1000#16 ||| v.setWidth 16 <<< 10 ||| z.setWidth 16 <<< 5 ||| i.setWidth 16) =
          none) ∧
    (let zero : Chan :=
        { a := 0#4, w := 0#5, fac := 0#32, off := 0#32, scfi := 0#6, scf := 0#32, raw := 0#16 }
      let e (v : Variant) : SbEntry :=
        { valid := true, var := v, idx := i, ch0 := zero, ch1 := zero, gcnt := 0#4 }
      exec (.createSbMono i) s = .next { s with sb := s.sb.set i.toNat (e .mono) i.isLt } ∧
      exec (.createSbSt i) s = .next { s with sb := s.sb.set i.toNat (e .st) i.isLt } ∧
      exec (.createSbIs i) s = .next { s with sb := s.sb.set i.toNat (e .is) i.isLt })

/-- R111 (SetAlloc), on the fields of one channel: A always; W, FAC and OFF for a nonzero code only. -/
def Obligations.SetAllocFields : Prop :=
  ∀ (c : Chan) (v : OffsetVariant) (a : BitVec 4),
    (a = 0#4 → c.withAlloc v a = { c with a := 0#4 }) ∧
    (a ≠ 0#4 → (c.withAlloc v a).w.toNat = a.toNat + 1 ∧
      c.withAlloc v a =
        { c with a := a, w := (c.withAlloc v a).w, fac := factorRom a, off := offsetRom v a }) ∧
    (a = 15#4 → (c.withAlloc v a).w = 16#5 ∧ (c.withAlloc v a).fac = 0x00000000#32 ∧
      (c.withAlloc v a).off = 0x00000000#32)

/-- R112 and R114: ALLOC.MONO and ALLOC.IS read one 4-bit code, fold it when CRC_PRESENT = 1 and store
it in channel 0; the checks come before the read, EXHAUSTED before the CrcAdd; channel 1 is not
written. -/
def Obligations.AllocOneCode : Prop :=
  ∀ (i : SbIdx) (s : State),
    encode (.allocMono i) = 0x2000#16 ||| i.setWidth 16 ∧
    encode (.allocIs i) = 0x2800#16 ||| i.setWidth 16 ∧
    (∀ (u : Instr) (v : Variant), (u = .allocMono i ∧ v = .mono) ∨ (u = .allocIs i ∧ v = .is) →
      (¬ s.Names i v → FaultsAt (exec u s) s u .illegalUop) ∧
      (s.Names i v → s.br.replies.next = .answers → s.br.has 4 = false →
        FaultsAt (exec u s) (s.foundExhausted 4) u .bitstreamExhausted) ∧
      (s.Names i v → s.br.replies.next = .answers → s.br.has 4 = true →
        let a := BitVec.ofNat 4 (s.field 4)
        let e := { s.entry i with ch0 := (s.entry i).ch0.withAlloc s.params.offsetVariant a }
        (s.crcPresent = false → exec u s = .next ((s.tookBits 4).setEntry i e)) ∧
        (s.crcPresent = true → s.crc.next = .ok →
          exec u s = .next (((s.tookBits 4).crcDone a .ok).setEntry i e)) ∧
        (s.crcPresent = true → s.crc.next = .err →
          FaultsAt (exec u s) ((s.tookBits 4).crcDone a .err) u .collaboratorError)))

/-- R113: ALLOC.ST reads two codes, then folds both, a0 before a1, then stores both. -/
def Obligations.AllocStTwoCodes : Prop :=
  ∀ (i : SbIdx) (s : State),
    encode (.allocSt i) = 0x2400#16 ||| i.setWidth 16 ∧
    (let u := Instr.allocSt i
      let s1 := s.tookBits 4
      let s2 := s1.tookBits 4
      let a0 := BitVec.ofNat 4 (s.field 4)
      let a1 := BitVec.ofNat 4 (s1.field 4)
      let e := { s.entry i with
        ch0 := (s.entry i).ch0.withAlloc s.params.offsetVariant a0
        ch1 := (s.entry i).ch1.withAlloc s.params.offsetVariant a1 }
      (¬ s.Names i .st → FaultsAt (exec u s) s u .illegalUop) ∧
      (s.Names i .st → s.br.replies.next = .answers → s.br.has 4 = false →
        FaultsAt (exec u s) (s.foundExhausted 4) u .bitstreamExhausted) ∧
      (s.Names i .st → s.br.replies.next = .answers → s.br.has 4 = true →
        s1.br.replies.next = .answers → s1.br.has 4 = false →
        FaultsAt (exec u s) (s1.foundExhausted 4) u .bitstreamExhausted) ∧
      (s.Names i .st → s.br.replies.next = .answers → s1.br.replies.next = .answers →
        s.br.has 4 = true → s1.br.has 4 = true →
        (s.crcPresent = false → exec u s = .next (s2.setEntry i e)) ∧
        (s.crcPresent = true → s.crc.next = .err →
          FaultsAt (exec u s) (s2.crcDone a0 .err) u .collaboratorError) ∧
        (s.crcPresent = true → s.crc.next = .ok → s.crc.advance.next = .err →
          FaultsAt (exec u s) ((s2.crcDone a0 .ok).crcDone a1 .err) u .collaboratorError) ∧
        (s.crcPresent = true → s.crc.next = .ok → s.crc.advance.next = .ok →
          exec u s = .next (((s2.crcDone a0 .ok).crcDone a1 .ok).setEntry i e))))

/-- R115: SCFSI changes nothing, for every variant; on an entry that fails the checks it faults
ILLEGAL_UOP. -/
def Obligations.ScfsiDoesNothing : Prop :=
  ∀ (i : SbIdx) (s : State),
    encode (.scfsiMono i) = 0x3000#16 ||| i.setWidth 16 ∧
    encode (.scfsiSt i) = 0x3400#16 ||| i.setWidth 16 ∧
    encode (.scfsiIs i) = 0x3800#16 ||| i.setWidth 16 ∧
    (s.Names i .mono → exec (.scfsiMono i) s = .next s) ∧
    (s.Names i .st → exec (.scfsiSt i) s = .next s) ∧
    (s.Names i .is → exec (.scfsiIs i) s = .next s) ∧
    (¬ s.Names i .mono → FaultsAt (exec (.scfsiMono i) s) s (.scfsiMono i) .illegalUop) ∧
    (¬ s.Names i .st → FaultsAt (exec (.scfsiSt i) s) s (.scfsiSt i) .illegalUop) ∧
    (¬ s.Names i .is → FaultsAt (exec (.scfsiIs i) s) s (.scfsiIs i) .illegalUop)

/-- R116, R117: SCF.MONO reads nothing for code 0; for any other code, 15 too, it reads 6 bits into SCFI0
and looks SCF0 up, code 63 included. -/
def Obligations.ScfMonoReadsGated : Prop :=
  ∀ (i : SbIdx) (s : State),
    encode (.scfMono i) = 0x4000#16 ||| i.setWidth 16 ∧
    (let u := Instr.scfMono i
      let e := s.entry i
      (¬ s.Names i .mono → FaultsAt (exec u s) s u .illegalUop) ∧
      (s.Names i .mono → e.ch0.a = 0#4 → exec u s = .next s) ∧
      (s.Names i .mono → e.ch0.a ≠ 0#4 → s.br.replies.next = .answers → s.br.has 6 = false →
        FaultsAt (exec u s) (s.foundExhausted 6) u .bitstreamExhausted) ∧
      (s.Names i .mono → e.ch0.a ≠ 0#4 → s.br.replies.next = .answers → s.br.has 6 = true →
        exec u s = .next
          ((s.tookBits 6).setEntry i { e with ch0 := e.ch0.scaled (BitVec.ofNat 6 (s.field 6)) })))

/-- R118: SCF.ST gates each channel by its own code, channel 1's field before channel 2's. -/
def Obligations.ScfStGatesEachChannel : Prop :=
  ∀ (i : SbIdx) (s : State),
    encode (.scfSt i) = 0x4400#16 ||| i.setWidth 16 ∧
    (let u := Instr.scfSt i
      let e := s.entry i
      let s1 := s.tookBits 6
      let c := BitVec.ofNat 6 (s.field 6)
      let c' := BitVec.ofNat 6 (s1.field 6)
      (¬ s.Names i .st → FaultsAt (exec u s) s u .illegalUop) ∧
      (s.Names i .st → e.ch0.a = 0#4 → e.ch1.a = 0#4 → exec u s = .next s) ∧
      (s.Names i .st → (e.ch0.a ≠ 0#4 ∨ e.ch1.a ≠ 0#4) → s.br.replies.next = .answers →
        s.br.has 6 = false → FaultsAt (exec u s) (s.foundExhausted 6) u .bitstreamExhausted) ∧
      (s.Names i .st → e.ch0.a ≠ 0#4 → e.ch1.a = 0#4 → s.br.replies.next = .answers →
        s.br.has 6 = true → exec u s = .next (s1.setEntry i { e with ch0 := e.ch0.scaled c })) ∧
      (s.Names i .st → e.ch0.a = 0#4 → e.ch1.a ≠ 0#4 → s.br.replies.next = .answers →
        s.br.has 6 = true → exec u s = .next (s1.setEntry i { e with ch1 := e.ch1.scaled c })) ∧
      (s.Names i .st → e.ch0.a ≠ 0#4 → e.ch1.a ≠ 0#4 → s.br.replies.next = .answers →
        s.br.has 6 = true → s1.br.replies.next = .answers →
        (s1.br.has 6 = false →
          FaultsAt (exec u s) (s1.foundExhausted 6) u .bitstreamExhausted) ∧
        (s1.br.has 6 = true → exec u s = .next ((s1.tookBits 6).setEntry i
          { e with ch0 := e.ch0.scaled c, ch1 := e.ch1.scaled c' }))))

/-- R119: SCF.IS gates both codes by the one shared code A0. -/
def Obligations.ScfIsSharedGate : Prop :=
  ∀ (i : SbIdx) (s : State),
    encode (.scfIs i) = 0x4800#16 ||| i.setWidth 16 ∧
    (let u := Instr.scfIs i
      let e := s.entry i
      let s1 := s.tookBits 6
      let c := BitVec.ofNat 6 (s.field 6)
      let c' := BitVec.ofNat 6 (s1.field 6)
      (¬ s.Names i .is → FaultsAt (exec u s) s u .illegalUop) ∧
      (s.Names i .is → e.ch0.a = 0#4 → exec u s = .next s) ∧
      (s.Names i .is → e.ch0.a ≠ 0#4 → s.br.replies.next = .answers → s.br.has 6 = false →
        FaultsAt (exec u s) (s.foundExhausted 6) u .bitstreamExhausted) ∧
      (s.Names i .is → e.ch0.a ≠ 0#4 → s.br.replies.next = .answers → s.br.has 6 = true →
        s1.br.replies.next = .answers →
        (s1.br.has 6 = false →
          FaultsAt (exec u s) (s1.foundExhausted 6) u .bitstreamExhausted) ∧
        (s1.br.has 6 = true → exec u s = .next ((s1.tookBits 6).setEntry i
          { e with ch0 := e.ch0.scaled c, ch1 := e.ch1.scaled c' }))))

/-- R120 and R123: SAMPLE.MONO and SAMPLE.IS read W0 bits into RAW0 when A0 ≠ 0, then step the granule
counter and RREADY; a fault comes before the step; RAW1 is not written. -/
def Obligations.SampleOneChannel : Prop :=
  ∀ (i : SbIdx) (s : State),
    encode (.sampleMono i) = 0x5000#16 ||| i.setWidth 16 ∧
    encode (.sampleIs i) = 0x5800#16 ||| i.setWidth 16 ∧
    (∀ (u : Instr) (v : Variant), (u = .sampleMono i ∧ v = .mono) ∨ (u = .sampleIs i ∧ v = .is) →
      let e := s.entry i
      let w := e.ch0.w.toNat
      (¬ s.Names i v → FaultsAt (exec u s) s u .illegalUop) ∧
      (s.Names i v → e.ch0.a = 0#4 → exec u s = .next (s.counted i e)) ∧
      (s.Names i v → e.ch0.a ≠ 0#4 → s.br.replies.next = .answers → s.br.has w = false →
        FaultsAt (exec u s) (s.foundExhausted w) u .bitstreamExhausted) ∧
      (s.Names i v → e.ch0.a ≠ 0#4 → s.br.replies.next = .answers → s.br.has w = true →
        exec u s = .next
          ((s.tookBits w).counted i { e with ch0 := e.ch0.sampled (s.field w) })))

/-- R121: SAMPLE.ST gates each read by its own code and steps the counter once, between the reads: a
fault at the second read finds RREADY already written. -/
def Obligations.SampleStTwoChannels : Prop :=
  ∀ (i : SbIdx) (s : State),
    encode (.sampleSt i) = 0x5400#16 ||| i.setWidth 16 ∧
    (let u := Instr.sampleSt i
      let e := s.entry i
      let w0 := e.ch0.w.toNat
      let w1 := e.ch1.w.toNat
      let s1 := s.tookBits w0
      let e0 := { e with ch0 := e.ch0.sampled (s.field w0) }
      (¬ s.Names i .st → FaultsAt (exec u s) s u .illegalUop) ∧
      (s.Names i .st → e.ch0.a = 0#4 → e.ch1.a = 0#4 → exec u s = .next (s.counted i e)) ∧
      (s.Names i .st → e.ch0.a ≠ 0#4 → s.br.replies.next = .answers → s.br.has w0 = false →
        FaultsAt (exec u s) (s.foundExhausted w0) u .bitstreamExhausted) ∧
      (s.Names i .st → e.ch0.a ≠ 0#4 → e.ch1.a = 0#4 → s.br.replies.next = .answers →
        s.br.has w0 = true → exec u s = .next (s1.counted i e0)) ∧
      (s.Names i .st → e.ch0.a = 0#4 → e.ch1.a ≠ 0#4 → s.br.replies.next = .answers →
        (s.br.has w1 = false →
          FaultsAt (exec u s) ((s.counted i e).foundExhausted w1) u .bitstreamExhausted) ∧
        (s.br.has w1 = true → exec u s = .next
          ((s.tookBits w1).counted i { e with ch1 := e.ch1.sampled (s.field w1) }))) ∧
      (s.Names i .st → e.ch0.a ≠ 0#4 → e.ch1.a ≠ 0#4 → s.br.replies.next = .answers →
        s.br.has w0 = true → s1.br.replies.next = .answers →
        (s1.br.has w1 = false →
          FaultsAt (exec u s) ((s1.counted i e0).foundExhausted w1) u .bitstreamExhausted) ∧
        (s1.br.has w1 = true → exec u s = .next ((s1.tookBits w1).counted i
          { e0 with ch1 := e.ch1.sampled (s1.field w1) }))))

/-- R122: GranuleStep is `counted`, the rule's own pseudocode; so from GCNT = 0, k + 1 of them leave
GCNT = (k + 1) mod 12 and RREADY = 1 exactly at the twelfth and every later twelfth, and the 13th leaves
GCNT = 1. -/
def Obligations.GranuleCounterWrapsAtTwelve : Prop :=
  ∀ (s : State) (i : SbIdx),
    s.granuleStep i = s.counted i (s.entry i) ∧
    (∀ k : Nat, (s.entry i).gcnt = 0#4 →
      let t := (fun u => u.granuleStep i)^[k + 1] s
      (t.entry i).gcnt.toNat = (k + 1) % 12 ∧ (t.rready = true ↔ (k + 1) % 12 = 0) ∧
      t = { s.setEntry i { s.entry i with gcnt := (t.entry i).gcnt } with rready := t.rready })

/-! ## PUT and SYNTH -/

/-- R143: PUT.MONO injects (raw × factor + offset) × scale factor into filter A, nothing under
RightOnly, and then writes WREADY, unless the Inject fails. R216: an Inject that never completes leaves
L1SD waiting; that its state then is the one before the uop but for the ports and `outstanding` is the
MODEL's reading (log 10, log 11). -/
def Obligations.PutMonoInjects : Prop :=
  ∀ (i : SbIdx) (s : State),
    encode (.putMono i) = 0x6000#16 ||| i.setWidth 16 ∧
    (let u := Instr.putMono i
      let c := (s.entry i).ch0
      let x := Txn.inject .a i (fmul32 (fadd32 (fmul32 (f32 c.raw.toNat) c.fac) c.off) c.scf)
      (¬ s.Names i .mono → FaultsAt (exec u s) s u .illegalUop) ∧
      (s.Names i .mono → s.sel = .rightOnly → exec u s = .next { s with wready := true }) ∧
      (s.Names i .mono → s.sel ≠ .rightOnly → s.fa.next = .ok →
        exec u s = .next { s.aDone x .ok with wready := true }) ∧
      (s.Names i .mono → s.sel ≠ .rightOnly → s.fa.next = .err →
        FaultsAt (exec u s) (s.aDone x .err) u .collaboratorError) ∧
      (s.Names i .mono → s.sel ≠ .rightOnly → s.fa.next = .never →
        exec u s = .next { s with
          fa := s.fa.advance
          outstanding := some x }))

/-- R144: PUT.ST computes the two channels independently; Both sends channel 1 to A and channel 2 to B,
LeftOnly channel 1 to A, RightOnly channel 2 to A; a fault at the second Inject leaves the first
issued. -/
def Obligations.PutStRoutes : Prop :=
  ∀ (i : SbIdx) (s : State),
    encode (.putSt i) = 0x6400#16 ||| i.setWidth 16 ∧
    (let u := Instr.putSt i
      let deq (c : Chan) : F32 := fmul32 (fadd32 (fmul32 (f32 c.raw.toNat) c.fac) c.off) c.scf
      let v0 := deq (s.entry i).ch0
      let v1 := deq (s.entry i).ch1
      let a0 := s.aDone (.inject .a i v0) .ok
      (¬ s.Names i .st → FaultsAt (exec u s) s u .illegalUop) ∧
      (s.Names i .st → s.sel ≠ .rightOnly → s.fa.next = .err →
        FaultsAt (exec u s) (s.aDone (.inject .a i v0) .err) u .collaboratorError) ∧
      (s.Names i .st → s.sel = .rightOnly → s.fa.next = .err →
        FaultsAt (exec u s) (s.aDone (.inject .a i v1) .err) u .collaboratorError) ∧
      (s.Names i .st → s.sel = .leftOnly → s.fa.next = .ok →
        exec u s = .next { a0 with wready := true }) ∧
      (s.Names i .st → s.sel = .rightOnly → s.fa.next = .ok →
        exec u s = .next { s.aDone (.inject .a i v1) .ok with wready := true }) ∧
      (s.Names i .st → s.sel = .both → s.fa.next = .ok →
        (s.fb.next = .ok →
          exec u s = .next { a0.bDone (.inject .b i v1) .ok with wready := true }) ∧
        (s.fb.next = .err →
          FaultsAt (exec u s) (a0.bDone (.inject .b i v1) .err) u .collaboratorError)))

/-- R145: PUT.IS computes one shared magnitude from channel 0 and scales it by SCF0 for the left and SCF1
for the right value; the routing is that of two values. -/
def Obligations.PutIsSteers : Prop :=
  ∀ (i : SbIdx) (s : State),
    encode (.putIs i) = 0x6800#16 ||| i.setWidth 16 ∧
    (let u := Instr.putIs i
      let c := (s.entry i).ch0
      let shared := fadd32 (fmul32 (f32 c.raw.toNat) c.fac) c.off
      let v1 := fmul32 shared c.scf
      let v2 := fmul32 shared (s.entry i).ch1.scf
      let a1 := s.aDone (.inject .a i v1) .ok
      (¬ s.Names i .is → FaultsAt (exec u s) s u .illegalUop) ∧
      (s.Names i .is → s.sel ≠ .rightOnly → s.fa.next = .err →
        FaultsAt (exec u s) (s.aDone (.inject .a i v1) .err) u .collaboratorError) ∧
      (s.Names i .is → s.sel = .rightOnly → s.fa.next = .err →
        FaultsAt (exec u s) (s.aDone (.inject .a i v2) .err) u .collaboratorError) ∧
      (s.Names i .is → s.sel = .leftOnly → s.fa.next = .ok →
        exec u s = .next { a1 with wready := true }) ∧
      (s.Names i .is → s.sel = .rightOnly → s.fa.next = .ok →
        exec u s = .next { s.aDone (.inject .a i v2) .ok with wready := true }) ∧
      (s.Names i .is → s.sel = .both → s.fa.next = .ok →
        (s.fb.next = .ok →
          exec u s = .next { a1.bDone (.inject .b i v2) .ok with wready := true }) ∧
        (s.fb.next = .err →
          FaultsAt (exec u s) (a1.bDone (.inject .b i v2) .err) u .collaboratorError)))

/-- R146: a channel whose allocation code is 0, its fields as its creation left them, injects +0.0 at every
PUT, along the route a nonzero code would take, under every SEL. -/
def Obligations.ZeroCodeInjectsZero : Prop :=
  ∀ (i : SbIdx) (s : State), s.fa.next = .ok → s.fb.next = .ok →
    let silent (c : Chan) : Prop :=
      c = { a := 0#4, w := 0#5, fac := 0#32, off := 0#32, scfi := 0#6, scf := 0#32, raw := 0#16 }
    let put (f : Filter) (x : F32) : Event := { txn := .inject f i x, result := .ok }
    let two (x y : F32) : List Event :=
      match s.sel with
      | .both => [put .a x, put .b y]
      | .leftOnly => [put .a x]
      | .rightOnly => [put .a y]
    let e := s.entry i
    (s.Names i .mono → silent e.ch0 → ∃ t, exec (.putMono i) s = .next t ∧
      t.trace = s.trace ++ (if s.sel = .rightOnly then [] else [put .a 0x00000000#32])) ∧
    (s.Names i .st → ∃ t x y, exec (.putSt i) s = .next t ∧ t.trace = s.trace ++ two x y ∧
      (silent e.ch0 → x = 0x00000000#32) ∧ (silent e.ch1 → y = 0x00000000#32)) ∧
    (s.Names i .is → silent e.ch0 → silent e.ch1 → ∃ t, exec (.putIs i) s = .next t ∧
      t.trace = s.trace ++ two 0x00000000#32 0x00000000#32)

/-- R81, R141: code 15 yields +0.0 for every sample and every scale factor, and code 63's scale factor
yields a zero for every code. -/
def Obligations.TolerantCodesYieldZero : Prop :=
  ∀ (v : OffsetVariant) (a : BitVec 4) (c : BitVec 6) (raw : BitVec 16) (x : Chan),
    (x.withAlloc v 15#4 |>.scaled c |>.sampled raw.toNat).deq = 0x00000000#32 ∧
    (a ≠ 0#4 → raw.toNat < 2 ^ (a.toNat + 1) →
      isZero (x.withAlloc v a |>.scaled 63#6 |>.sampled raw.toNat).deq = true)

/-- R148's first clause: every dequantized value, of code 0 in a channel as its creation left it and of codes
1 to 15, under every scale-factor code, is +0.0, -0.0 or a finite normal number. -/
def Obligations.DequantizedValuesAreOrdinary : Prop :=
  ∀ (v : OffsetVariant) (a : BitVec 4) (c : BitVec 6) (raw : BitVec 16) (x : Chan),
    let ordinary (y : F32) : Prop := FiniteF32 y ∧ (isZero y = true ∨ 1 ≤ expOf y)
    let created : Chan :=
      { a := 0#4, w := 0#5, fac := 0#32, off := 0#32, scfi := 0#6, scf := 0#32, raw := 0#16 }
    ordinary (created.withAlloc v 0#4).deq ∧
    ordinary (created.withAlloc v 0#4 |>.scaled c).deq ∧
    (a ≠ 0#4 → raw.toNat < 2 ^ (a.toNat + 1) →
      ordinary (x.withAlloc v a |>.scaled c |>.sampled raw.toNat).deq)

/-- R147's first case: where the two scale-factor codes agree modulo 3, the two values of an IS entry
stand in exactly the ratio of their scale factors, with no rounding between them. -/
def Obligations.IntensityRatioExact : Prop :=
  ∀ (v : OffsetVariant) (a : BitVec 4) (c0 c1 : BitVec 6) (raw : BitVec 16) (x : Chan),
    a ≠ 0#4 → raw.toNat < 2 ^ (a.toNat + 1) → c0 ≠ 63#6 → c1 ≠ 63#6 →
    c0.toNat % 3 = c1.toNat % 3 →
    let shared := (x.withAlloc v a |>.sampled raw.toNat).requant
    valueF32 (fmul32 shared (scfRom c0)) * valueF32 (scfRom c1) =
      valueF32 (fmul32 shared (scfRom c1)) * valueF32 (scfRom c0)

/-- R149 and R150: SYNTH issues one Synth on its filter, reads and writes no state of L1SD, and checks no
entry; ERR faults COLLABORATOR_ERROR; a Synth that never completes leaves L1SD waiting (R216). -/
def Obligations.SynthTriggersFilter : Prop :=
  ∀ s : State,
    encode .synthA = 0x7000#16 ∧ encode .synthB = 0x7001#16 ∧
    (s.fa.next = .ok → exec .synthA s = .next (s.aDone (.synth .a) .ok)) ∧
    (s.fb.next = .ok → exec .synthB s = .next (s.bDone (.synth .b) .ok)) ∧
    (s.fa.next = .err →
      FaultsAt (exec .synthA s) (s.aDone (.synth .a) .err) .synthA .collaboratorError) ∧
    (s.fb.next = .err →
      FaultsAt (exec .synthB s) (s.bDone (.synth .b) .err) .synthB .collaboratorError) ∧
    (s.fa.next = .never → exec .synthA s = .next { s with
      fa := s.fa.advance
      outstanding := some (.synth .a) }) ∧
    (s.fb.next = .never → exec .synthB s = .next { s with
      fb := s.fb.advance
      outstanding := some (.synth .b) })

/-! ## Binary32 -/

/-- R9: the product of two finite patterns, where it is finite, is a nearest pattern, ties to even. -/
def Obligations.ProductRoundsToNearestEven : Prop :=
  ∀ x y : F32, FiniteF32 x → FiniteF32 y → FiniteF32 (fmul32 x y) →
    NearestEven (fmul32 x y) (valueF32 x * valueF32 y)

/-- R9: the sum of two finite patterns, where it is finite, is a nearest pattern, ties to even. -/
def Obligations.SumRoundsToNearestEven : Prop :=
  ∀ x y : F32, FiniteF32 x → FiniteF32 y → FiniteF32 (fadd32 x y) →
    NearestEven (fadd32 x y) (valueF32 x + valueF32 y)

/-- R9: the signs of zeros, and f32(k), exact below 2^24. -/
def Obligations.ZeroSignsAndExactIntegers : Prop :=
  (∀ x y : F32, FiniteF32 x → FiniteF32 y → (isZero x = true ∨ isZero y = true) →
    fmul32 x y = if signOf x = signOf y then 0x00000000#32 else 0x80000000#32) ∧
  fadd32 0x00000000#32 0x00000000#32 = 0x00000000#32 ∧
  fadd32 0x00000000#32 0x80000000#32 = 0x00000000#32 ∧
  fadd32 0x80000000#32 0x80000000#32 = 0x80000000#32 ∧
  (∀ x : F32, FiniteF32 x → isZero x = false → fadd32 x (x ^^^ 0x80000000#32) = 0x00000000#32) ∧
  (∀ k : Nat, k < 2 ^ 24 → FiniteF32 (f32 k) ∧ valueF32 (f32 k) = (k : ℚ))

/-! ## Ports -/

/-- R56, R35: a GetBits that the stream can answer gives the next n bits, most significant first, moves
the cursor by n and adds n to BITCNT; one it cannot answer faults BITSTREAM_EXHAUSTED and adds
nothing; one that never completes leaves the uop waiting (R216). A uop taken up again finds a completed
GetBits latched, with its value, and issues none (R257, log 9). -/
def Obligations.GetBitsIsMsbFirst : Prop :=
  ∀ (w : Word) (n : Nat) (s : State), 1 ≤ n → n ≤ 16 →
    (s.br.replies.next = .answers → s.br.cursor + n ≤ s.br.bits.length →
      ∃ v, v = ∑ k ∈ Finset.range n, (s.br.bits.getD (s.br.cursor + k) false).toNat * 2 ^ (n - 1 - k) ∧
        v < 2 ^ n ∧
        getBits (UopCtx.fresh w) n s = .done v (UopCtx.fresh w) { s with
          br := { s.br with cursor := s.br.cursor + n, replies := s.br.replies.advance }
          bitcnt := s.bitcnt + BitVec.ofNat 32 n
          trace := s.trace ++ [{ txn := .getBits n, result := .value v }] }) ∧
    (s.br.replies.next = .never → getBits (UopCtx.fresh w) n s = .hang (.getBits n) { s with
      br := { s.br with replies := s.br.replies.advance } }) ∧
    (∀ (v : Nat) (b : Option Nat), v < 2 ^ n →
      getBits { word := w, replay := [{ txn := .getBits n, result := .value v }], budget := b } n s =
        .done v { word := w, replay := [], budget := b } { s with
          bitcnt := s.bitcnt + BitVec.ofNat 32 n }) ∧
    (s.br.replies.next = .answers → s.br.bits.length < s.br.cursor + n →
      ∃ t, getBits (UopCtx.fresh w) n s = .stop t ∧ t.fsm = .error ∧ t.cause = .bitstreamExhausted ∧
        t.bitcnt = s.bitcnt ∧ t.trace = s.trace ++ [{ txn := .getBits n, result := .exhausted }])

/-! ## Host commands -/

/-- R160: CFG writes SEL, CRC_PRESENT, CREATED, clears CAUSE and ERRINFO and goes to IDLE, and changes
nothing else; SEL = 3 or a nonzero [11:3] faults ILLEGAL_CMD and writes nothing but fault entry's fields.
That the ill-formed term cfg with SEL = 3 does so too is the MODEL's choice (log 14). -/
def Obligations.CfgConfigures : Prop :=
  ∀ (crc : Bool) (s : State),
    (∀ sel : BitVec 2, encode (.cfg crc sel) =
      0x8000#16 ||| (BitVec.ofBool crc).setWidth 16 <<< 2 ||| sel.setWidth 16) ∧
    (∀ (sel : BitVec 2) (x : Sel),
      (sel = 0#2 ∧ x = .both) ∨ (sel = 1#2 ∧ x = .leftOnly) ∨ (sel = 2#2 ∧ x = .rightOnly) →
      exec (.cfg crc sel) s = .next { s with
        sel := x, crcPresent := crc, created := true, cause := .none, errWord := 0#16
        errSrc := .uop, errGran := 0#4, fsm := .idle }) ∧
    (∀ w : Word, w.extractLsb' 12 4 = 8#4 → w.extractLsb' 0 2 = 3#2 ∨ w.extractLsb' 3 9 ≠ 0#9 →
      acceptWord w s = .next { s with
        fsm := .error, cause := .illegalCmd, errWord := w, errSrc := .hostCommand
        errGran := s.seqG }) ∧
    exec (.cfg crc 3#2) s = .next { s with
      fsm := .error, cause := .illegalCmd, errWord := encode (.cfg crc 3#2)
      errSrc := .hostCommand, errGran := s.seqG }

/-- R161 at acceptance: NOT_CREATED before anything is latched; else the header is latched, the last
fault, BITCNT, every VALID and the flags are cleared and SEQ is (INIT, 0, READ, 0); an invalid header
then faults CONFIG_INVALID. -/
def Obligations.DecodeStartsFrame : Prop :=
  ∀ s : State,
    encode .decode = 0x9000#16 ∧
    (s.created = false → exec .decode s = .next { s with
      fsm := .error, cause := .notCreated, errWord := 0x9000#16, errSrc := .hostCommand
      errGran := s.seqG }) ∧
    (s.created = true →
      let h := s.pins.hdr
      let f := { s with
        mode := h.mode, n := h.n, b := h.b, cause := .none, errWord := 0#16, errSrc := .uop
        errGran := 0#4, bitcnt := 0#32, sb := s.sb.map (fun e => { e with valid := false })
        rready := false, wready := false, guard := false
        fsm := .init, seqI := 0#5, seqPh := .read, seqG := 0#4 }
      (frameValid h.mode h.n h.b = true → exec .decode s = .next f) ∧
      (frameValid h.mode h.n h.b = false → exec .decode s = .next { f with
        fsm := .error, cause := .configInvalid, errWord := 0x9000#16, errSrc := .hostCommand }))

/-- R162: FrameValid. -/
def Obligations.FrameValidIff : Prop :=
  ∀ (mode : ChMode) (n b : BitVec 6),
    frameValid mode n b = true ↔
      (1 ≤ n.toNat ∧ n.toNat ≤ 32) ∧ (mode ≠ .jointStereo ∨ b.toNat ≤ 32)

/-! ## Faults -/

/-- R202 and R203: an operation that takes the machine into ERROR does so with a cause the table gives
it. -/
def Obligations.OperationsRaiseTheirCauses : Prop :=
  ∀ (i : Instr) (s t : State), exec i s = .next t → s.fsm ≠ .error → t.fsm = .error →
    t.cause ∈ possibleCauses s.crcPresent i

/-- R204, R205 for uops: the faulting word, ERRSRC = 0 and SEQ_G are recorded; the configuration, the
frame context, GUARD and SEQ but for FSM keep their values; the trace keeps what completed, BITCNT has
counted the bits of it, and RREADY is as before but where the granule step of a SAMPLE.ST has run. That the
bit reader's cursor, which R252 calls unknown after a fault, stays where the last completed read left it
unless the fault is EXHAUSTED is the MODEL's reading (log 20). -/
def Obligations.UopFaultRecordsAndKeeps : Prop :=
  ∀ (i : Instr) (s t : State), i.port = .uopBus → exec i s = .next t → s.fsm ≠ .error →
    t.fsm = .error →
    t.errWord = encode i ∧ t.errSrc = .uop ∧ t.errGran = s.seqG ∧
    t.sel = s.sel ∧ t.crcPresent = s.crcPresent ∧ t.created = s.created ∧ t.mode = s.mode ∧
    t.n = s.n ∧ t.b = s.b ∧ t.guard = s.guard ∧ t.seqI = s.seqI ∧ t.seqPh = s.seqPh ∧
    t.seqG = s.seqG ∧ t.outstanding = s.outstanding ∧ t.wready = s.wready ∧
    (∃ new, t.trace = s.trace ++ new ∧
      t.bitcnt = s.bitcnt + BitVec.ofNat 32 (new.map Event.bitsRead).sum ∧
      (t.cause ≠ .bitstreamExhausted →
        t.br.cursor = s.br.cursor + (new.map Event.bitsRead).sum)) ∧
    ((∀ j, i ≠ .sampleSt j) → t.rready = s.rready) ∧
    (∀ j, i = .sampleSt j →
      t.rready = s.rready ∨ t.rready = decide ((s.entry j).gcnt = 11#4))

/-- R206: a step leaves ERROR only by reset, by an accepted CFG, or by an accepted DECODE, and each
clears CAUSE and ERRINFO. -/
def Obligations.ErrorLeftOnlyByCommandOrReset : Prop :=
  ∀ s t : State, s.fsm = .error → step s = .next t → t.fsm ≠ .error →
    (t.cause = .none ∧ t.errWord = 0#16 ∧ t.errSrc = .uop ∧ t.errGran = 0#4) ∧
    ((s.sampleInputs.pins.rst = true ∧ t.fsm = .idle) ∨
      (∃ crc sel, s.sampleInputs.pins.cmd = some (encode (.cfg crc sel)) ∧ t.fsm = .idle) ∨
      (s.sampleInputs.pins.cmd = some (encode .decode) ∧ t.fsm = .init))

/-- R216: an operation whose transaction never completes raises no fault: the ports and `outstanding` alone
tell it from the state before, so SEQ, the configuration and the fault registers stay, and SEQ does not move
after it. R68 (log 11, the MODEL's reading): while it waits, every host register reads as it did before it.
R257 and R240 (log 9, the MODEL's grain, at least one transaction a step): a uop that stands between two of
its transactions, its first k + 1 completed and recorded in the trace, has likewise changed the ports alone,
and taken up again it ends exactly as the whole uop would have. R258: under every grain a step that leaves a
uop standing, begun or taken up again, has gone k + 1 transactions on, and none stands with more than three
completed, so that the only unbounded wait is a transaction that never completes. -/
def Obligations.UncompletedTransactionRaisesNoFault : Prop :=
  (∀ (i : Instr) (s t : State), exec i s = .next t → s.outstanding = none → t.outstanding ≠ none →
    i.port = .uopBus ∧ t = { s.withPorts t with outstanding := t.outstanding } ∧
    t.fsm = s.fsm ∧ t.seqI = s.seqI ∧ t.seqPh = s.seqPh ∧ t.seqG = s.seqG ∧
    t.sel = s.sel ∧ t.crcPresent = s.crcPresent ∧ t.created = s.created ∧
    t.cause = s.cause ∧ t.errWord = s.errWord ∧ t.errSrc = s.errSrc ∧ t.errGran = s.errGran ∧
    t.afterUop = t ∧ (∀ r, t.regRead r = s.regRead r)) ∧
  (∀ (i : Instr) (s m : State) (d : Option Word) (k : Nat), i.port = .uopBus → s.inFlight = none →
    s.outstanding = none → { s with budget := some k }.partUop d i = m → m.inFlight ≠ none →
    m = { s.withPorts m with budget := some k, inFlight := m.inFlight } ∧
    m.afterUop = m ∧ (∀ r, m.regRead r = s.regRead r) ∧
    (∃ new, m.trace = s.trace ++ new ∧ new.length = k + 1 ∧
      m.inFlight = some { driven := d, latched := new }) ∧
    exec i s = .next { { m with budget := none }.partUop d i with budget := s.budget }) ∧
  (∀ (i : Instr) (s : State) (d : Option Word) (k : Nat) (f : InFlight),
    ({ s with budget := some k }.partUop d i).inFlight = some f →
    f.latched.length = s.latched.length + (k + 1) ∧ f.latched.length ≤ 3)

/-! ## Host registers -/

/-- R21 to R25, R35: what each register number reads, field by field, and the codes of the coded fields: SEL
(R23), MODE (R24, R93), ERRSRC (R25), FSM (R37) and CAUSE (R200). -/
def Obligations.HostRegisterFields : Prop :=
  ∀ s : State, s.pins.rst = false →
    s.regRead 0#3 = some s.statusReg ∧ s.regRead 1#3 = some s.configReg ∧
    s.regRead 2#3 = some s.frameReg ∧ s.regRead 3#3 = some s.errinfoReg ∧
    s.regRead 4#3 = some s.bitcnt ∧
    s.regRead 5#3 = some 0#32 ∧ s.regRead 6#3 = some 0#32 ∧ s.regRead 7#3 = some 0#32 ∧
    s.statusReg.getLsbD 0 = s.created ∧
    (s.statusReg.getLsbD 1 = true ↔ s.fsm = .init ∨ s.fsm = .allocate ∨ s.fsm = .scaleSelect ∨
      s.fsm = .scaleFactors ∨ s.fsm = .sampleLoop) ∧
    (s.statusReg.getLsbD 2 = true ↔ s.fsm = .done) ∧
    (s.statusReg.getLsbD 3 = true ↔ s.fsm = .error) ∧
    s.statusReg.extractLsb' 4 4 = s.cause.code ∧ s.statusReg.extractLsb' 8 3 = s.fsm.code ∧
    s.statusReg.getLsbD 11 = s.guard ∧ s.statusReg.extractLsb' 12 4 = s.seqG ∧
    s.statusReg.extractLsb' 16 16 = 0#16 ∧
    s.configReg.extractLsb' 0 2 = s.sel.code ∧ s.configReg.getLsbD 2 = s.crcPresent ∧
    s.configReg.extractLsb' 3 29 = 0#29 ∧
    s.frameReg.extractLsb' 0 2 = s.mode.code ∧ s.frameReg.extractLsb' 2 6 = s.n ∧
    s.frameReg.extractLsb' 8 6 = s.b ∧ s.frameReg.extractLsb' 14 18 = 0#18 ∧
    s.errinfoReg.extractLsb' 0 16 = s.errWord ∧ s.errinfoReg.extractLsb' 16 1 = s.errSrc.code ∧
    s.errinfoReg.extractLsb' 17 4 = s.errGran ∧ s.errinfoReg.extractLsb' 21 11 = 0#11 ∧
    (Sel.both.code = 0#2 ∧ Sel.leftOnly.code = 1#2 ∧ Sel.rightOnly.code = 2#2) ∧
    (ChMode.stereo.code = 0#2 ∧ ChMode.jointStereo.code = 1#2 ∧ ChMode.dualChannel.code = 2#2 ∧
      ChMode.mono.code = 3#2) ∧
    (ErrSrc.uop.code = 0#1 ∧ ErrSrc.hostCommand.code = 1#1) ∧
    (Fsm.idle.code = 0#3 ∧ Fsm.init.code = 1#3 ∧ Fsm.allocate.code = 2#3 ∧ Fsm.scaleSelect.code = 3#3 ∧
      Fsm.scaleFactors.code = 4#3 ∧ Fsm.sampleLoop.code = 5#3 ∧ Fsm.done.code = 6#3 ∧
      Fsm.error.code = 7#3) ∧
    (Cause.none.code = 0#4 ∧ Cause.bitstreamExhausted.code = 1#4 ∧ Cause.collaboratorError.code = 2#4 ∧
      Cause.configInvalid.code = 3#4 ∧ Cause.notCreated.code = 4#4 ∧ Cause.illegalCmd.code = 5#4 ∧
      Cause.illegalUop.code = 6#4)

/-! ## The sequencer -/

/-- R168: GuardEval. -/
def Obligations.GuardEvalByMode : Prop :=
  ∀ s : State,
    (s.params.guardMode = .permissive →
      (s.guardEval = true ↔ s.crcPresent = true ∨ s.pins.hdr.ckok = true)) ∧
    (s.params.guardMode = .strict → (s.guardEval = true ↔ s.pins.hdr.ckok = true))

/-- R167, R169: after the last SCFSI the guard is evaluated; where it fails the frame is DONE with GUARD = 0
and no cause, and where it holds SCALEFACTORS begins at subband 0. That this happens in the very step of that
SCFSI is the MODEL's choice (log 9). -/
def Obligations.GuardDecidesTheFrame : Prop :=
  ∀ s : State, s.inputs = [] → s.pins.rst = false → s.pins.uop = none → s.outstanding = none →
    s.inFlight = none → s.fsm = .scaleSelect → s.n.toNat = s.seqI.toNat + 1 → s.Names s.seqI s.seqVar →
    (s.guardEval = false → step s = .next { s with guard := false, fsm := .done }) ∧
    (s.guardEval = true →
      step s = .next { s with guard := true, fsm := .scaleFactors, seqI := 0#5 })

/-- R173: after the last PUT of a pass SYNTH A is named, and after SYNTH A, SYNTH B exactly when
SEL = Both and MODE ≠ Mono. -/
def Obligations.SynthBFollowsSynthA : Prop :=
  ∀ s : State, s.fsm = .sampleLoop →
    (s.seqPh = .put → s.n.toNat = s.seqI.toNat + 1 → s.advance.nextUop = some .synthA) ∧
    (s.seqPh = .synA →
      (s.advance.nextUop = some .synthB ↔ s.sel = .both ∧ s.mode ≠ .mono))

/-- R163: the variant of each subband, and the CREATE_SB that INIT issues for it. -/
def Obligations.VariantPolicy : Prop :=
  ∀ (s : State) (i : SbIdx), s.fsm = .init → s.seqI = i →
    (s.mode = .mono → s.nextUop = some (.createSbMono i)) ∧
    (s.mode = .stereo ∨ s.mode = .dualChannel → s.nextUop = some (.createSbSt i)) ∧
    (s.mode = .jointStereo → i.toNat < s.b.toNat → s.nextUop = some (.createSbSt i)) ∧
    (s.mode = .jointStereo → s.b.toNat ≤ i.toNat → s.nextUop = some (.createSbIs i))

/-! ## Invariants -/

/-- R28, R42: every step keeps IDX = i in every entry, and the parameters. -/
def Obligations.EveryStepKeepsIdxAndParams : Prop :=
  ∀ s t : State, step s = .next t →
    t.params = s.params ∧ (s.IdxConstant → t.IdxConstant)

/-- R29, R31, R124, R162 to R172: every step of the sequencer, and every host command and reset, keeps the
frame invariant. -/
def Obligations.EveryStepKeepsFrameInv : Prop :=
  ∀ s t : State, s.FrameInv → s.Mission → step s = .next t → t.FrameInv

/-- R35, R85, R175: every step keeps BITCNT equal to the bits of the fields before SEQ, those of the uops that
have completed; so at DONE it is the total of R85, computed from the entries' own allocation codes. That in a
state between two reads of one uop BITCNT does not count the first of them yet is the MODEL's reading
(registers as before the uop until it ends, log 11), and that there are such states its grain (log 9). -/
def Obligations.EveryStepKeepsBitAccounting : Prop :=
  ∀ s t : State, s.FrameInv → s.BitsAccounted → s.Mission → step s = .next t → t.BitsAccounted

/-- The three invariants hold in the state after reset. -/
def Obligations.InvariantsHoldAtReset : Prop :=
  State.reset.IdxConstant ∧ State.reset.FrameInv ∧ State.reset.BitsAccounted

/-- R90, R202, R56: in a frame the sequencer never raises ILLEGAL_UOP, and asks the bit reader for 1 to
16 bits only, whether the GetBits completes or is left outstanding. -/
def Obligations.SequencerIssuesOnlyLegalUops : Prop :=
  ∀ s t : State, s.FrameInv → s.busy = true → s.outstanding = none → s.Mission →
    s.sampleInputs.pins.rst = false → step s = .next t →
    ¬ (t.fsm = .error ∧ t.cause = .illegalUop) ∧
    (∃ new, t.trace = s.trace ++ new ∧
      ∀ e ∈ new, ∀ n, e.txn = .getBits n → 1 ≤ n ∧ n ≤ 16) ∧
    ∀ n, t.outstanding = some (.getBits n) → 1 ≤ n ∧ n ≤ 16

/-- R30: in SAMPLELOOP a step that does not fault changes no field of any entry but RAW0, RAW1 and
GCNT. -/
def Obligations.SampleLoopWritesOnlyRawAndGcnt : Prop :=
  ∀ s t : State, s.fsm = .sampleLoop → s.Mission → s.sampleInputs.pins.rst = false →
    step s = .next t → t.fsm ≠ .error →
    ∀ i, ∃ r0 r1 g, t.entry i =
      { s.entry i with
        ch0 := { (s.entry i).ch0 with raw := r0 }
        ch1 := { (s.entry i).ch1 with raw := r1 }
        gcnt := g }

/-- R26: a uop that does not fault touches no entry but the one its SB field names. -/
def Obligations.UopTouchesOnlyItsEntry : Prop :=
  ∀ (i : Instr) (s t : State) (j : SbIdx), i.port = .uopBus → exec i s = .next t →
    s.fsm ≠ .error → t.fsm ≠ .error → subbandOf i ≠ some j → t.entry j = s.entry j

/-- R251: while a frame is in progress, other values of HDR_MODE, HDR_N and HDR_B change nothing, and
HDR_CKOK changes nothing but at the guard's step. -/
def Obligations.HeaderChangeHasNoEffect : Prop :=
  ∀ (s : State) (h : Header), s.busy = true → s.inputs = [] →
    (h.ckok = s.pins.hdr.ckok ∨ ¬ (s.fsm = .scaleSelect ∧ s.atLastSubband = true)) →
    step (s.withHdr h) = mapNext (fun t => t.withHdr h) (step s)

/-- R164: from an accepted, valid DECODE the sequencer names exactly the uops of R164's schedule, in
order, until a fault or an uncompleted transaction ends the frame; after the last it names none. That a step
is a uop is the MODEL's choice (log 9). -/
def Obligations.FrameFollowsTheSchedule : Prop :=
  ∀ (s t : State) (k : Nat), s.HostSilent → s.outstanding = none → s.inFlight = none →
    frameValid s.pins.hdr.mode s.pins.hdr.n s.pins.hdr.b = true →
    let uops := frameSchedule s.pins.hdr.mode s.pins.hdr.b s.pins.hdr.n.toNat
      (s.sel == .both && s.pins.hdr.mode != .mono) s.guardEval
    k ≤ uops.length → Sys2Proof.core.run k s.startFrame = .next t →
    t.fsm = .error ∨ t.outstanding ≠ none ∨
      (t.nextUop = uops[k]? ∧ (k = uops.length → t.fsm = .done))

/-- R258, R172: from an accepted, valid DECODE, with collaborators that complete every transaction, the
frame ends in DONE or ERROR within 920 steps. Reading R258's 920 uops as steps is the MODEL's choice
(log 9). -/
def Obligations.FrameEndsWithin920Uops : Prop :=
  ∀ s : State, s.HostSilent → s.outstanding = none → s.inFlight = none →
    frameValid s.pins.hdr.mode s.pins.hdr.n s.pins.hdr.b = true →
    s.br.replies.Answers → s.crc.Completes → s.fa.Completes → s.fb.Completes →
    ∃ k t, k ≤ 920 ∧ Sys2Proof.core.run k s.startFrame = .next t ∧ (t.fsm = .done ∨ t.fsm = .error)

/-- R177: the uop count of a frame, `3N + g × (N + 12 × (2N + 1 + s))`. -/
def Obligations.ScheduleLength : Prop :=
  ∀ (mode : ChMode) (b : BitVec 6) (n : Nat) (filterB guard : Bool),
    (frameSchedule mode b n filterB guard).length =
      3 * n + guard.toNat * (n + 12 * (2 * n + 1 + filterB.toNat))
end

