-- ==== Sys2Proof/Laws/State.lean ====
section
/-! SUPPORT. One lemma per field per update of the state, each true by rfl, so that no proof unfolds a record
update. Lemmas that say what an update writes cite its rule; the others say what it leaves alone. -/

namespace Sys2Proof.Machine

variable (s : State)


/-! ## `setEntry` -/

@[simp] theorem State.setEntry_created (i : SbIdx) (e : SbEntry) : (s.setEntry i e).created = s.created := rfl
@[simp] theorem State.setEntry_sel (i : SbIdx) (e : SbEntry) : (s.setEntry i e).sel = s.sel := rfl
@[simp] theorem State.setEntry_crcPresent (i : SbIdx) (e : SbEntry) :
    (s.setEntry i e).crcPresent = s.crcPresent := rfl
@[simp] theorem State.setEntry_mode (i : SbIdx) (e : SbEntry) : (s.setEntry i e).mode = s.mode := rfl
@[simp] theorem State.setEntry_n (i : SbIdx) (e : SbEntry) : (s.setEntry i e).n = s.n := rfl
@[simp] theorem State.setEntry_b (i : SbIdx) (e : SbEntry) : (s.setEntry i e).b = s.b := rfl
@[simp] theorem State.setEntry_guard (i : SbIdx) (e : SbEntry) : (s.setEntry i e).guard = s.guard := rfl
@[simp] theorem State.setEntry_rready (i : SbIdx) (e : SbEntry) : (s.setEntry i e).rready = s.rready := rfl
@[simp] theorem State.setEntry_wready (i : SbIdx) (e : SbEntry) : (s.setEntry i e).wready = s.wready := rfl
@[simp] theorem State.setEntry_fsm (i : SbIdx) (e : SbEntry) : (s.setEntry i e).fsm = s.fsm := rfl
@[simp] theorem State.setEntry_seqI (i : SbIdx) (e : SbEntry) : (s.setEntry i e).seqI = s.seqI := rfl
@[simp] theorem State.setEntry_seqPh (i : SbIdx) (e : SbEntry) : (s.setEntry i e).seqPh = s.seqPh := rfl
@[simp] theorem State.setEntry_seqG (i : SbIdx) (e : SbEntry) : (s.setEntry i e).seqG = s.seqG := rfl
@[simp] theorem State.setEntry_cause (i : SbIdx) (e : SbEntry) : (s.setEntry i e).cause = s.cause := rfl
@[simp] theorem State.setEntry_errWord (i : SbIdx) (e : SbEntry) : (s.setEntry i e).errWord = s.errWord := rfl
@[simp] theorem State.setEntry_errSrc (i : SbIdx) (e : SbEntry) : (s.setEntry i e).errSrc = s.errSrc := rfl
@[simp] theorem State.setEntry_errGran (i : SbIdx) (e : SbEntry) : (s.setEntry i e).errGran = s.errGran := rfl
@[simp] theorem State.setEntry_bitcnt (i : SbIdx) (e : SbEntry) : (s.setEntry i e).bitcnt = s.bitcnt := rfl
@[simp] theorem State.setEntry_sb (i : SbIdx) (e : SbEntry) : (s.setEntry i e).sb = s.sb.set i.toNat e i.isLt := rfl
@[simp] theorem State.setEntry_outstanding (i : SbIdx) (e : SbEntry) :
    (s.setEntry i e).outstanding = s.outstanding := rfl
@[simp] theorem State.setEntry_inFlight (i : SbIdx) (e : SbEntry) : (s.setEntry i e).inFlight = s.inFlight := rfl
@[simp] theorem State.setEntry_pins (i : SbIdx) (e : SbEntry) : (s.setEntry i e).pins = s.pins := rfl
@[simp] theorem State.setEntry_inputs (i : SbIdx) (e : SbEntry) : (s.setEntry i e).inputs = s.inputs := rfl
@[simp] theorem State.setEntry_budget (i : SbIdx) (e : SbEntry) : (s.setEntry i e).budget = s.budget := rfl
@[simp] theorem State.setEntry_br (i : SbIdx) (e : SbEntry) : (s.setEntry i e).br = s.br := rfl
@[simp] theorem State.setEntry_crc (i : SbIdx) (e : SbEntry) : (s.setEntry i e).crc = s.crc := rfl
@[simp] theorem State.setEntry_fa (i : SbIdx) (e : SbEntry) : (s.setEntry i e).fa = s.fa := rfl
@[simp] theorem State.setEntry_fb (i : SbIdx) (e : SbEntry) : (s.setEntry i e).fb = s.fb := rfl
@[simp] theorem State.setEntry_trace (i : SbIdx) (e : SbEntry) : (s.setEntry i e).trace = s.trace := rfl
@[simp] theorem State.setEntry_params (i : SbIdx) (e : SbEntry) : (s.setEntry i e).params = s.params := rfl
@[simp] theorem State.setEntry_freeCount (i : SbIdx) (e : SbEntry) : (s.setEntry i e).freeCount = s.freeCount := rfl

/-! ## `setChan` -/

@[simp] theorem State.setChan_created (i : SbIdx) (k : Ch) (c : Chan) : (s.setChan i k c).created = s.created := rfl
@[simp] theorem State.setChan_sel (i : SbIdx) (k : Ch) (c : Chan) : (s.setChan i k c).sel = s.sel := rfl
@[simp] theorem State.setChan_crcPresent (i : SbIdx) (k : Ch) (c : Chan) :
    (s.setChan i k c).crcPresent = s.crcPresent := rfl
@[simp] theorem State.setChan_mode (i : SbIdx) (k : Ch) (c : Chan) : (s.setChan i k c).mode = s.mode := rfl
@[simp] theorem State.setChan_n (i : SbIdx) (k : Ch) (c : Chan) : (s.setChan i k c).n = s.n := rfl
@[simp] theorem State.setChan_b (i : SbIdx) (k : Ch) (c : Chan) : (s.setChan i k c).b = s.b := rfl
@[simp] theorem State.setChan_guard (i : SbIdx) (k : Ch) (c : Chan) : (s.setChan i k c).guard = s.guard := rfl
@[simp] theorem State.setChan_rready (i : SbIdx) (k : Ch) (c : Chan) : (s.setChan i k c).rready = s.rready := rfl
@[simp] theorem State.setChan_wready (i : SbIdx) (k : Ch) (c : Chan) : (s.setChan i k c).wready = s.wready := rfl
@[simp] theorem State.setChan_fsm (i : SbIdx) (k : Ch) (c : Chan) : (s.setChan i k c).fsm = s.fsm := rfl
@[simp] theorem State.setChan_seqI (i : SbIdx) (k : Ch) (c : Chan) : (s.setChan i k c).seqI = s.seqI := rfl
@[simp] theorem State.setChan_seqPh (i : SbIdx) (k : Ch) (c : Chan) : (s.setChan i k c).seqPh = s.seqPh := rfl
@[simp] theorem State.setChan_seqG (i : SbIdx) (k : Ch) (c : Chan) : (s.setChan i k c).seqG = s.seqG := rfl
@[simp] theorem State.setChan_cause (i : SbIdx) (k : Ch) (c : Chan) : (s.setChan i k c).cause = s.cause := rfl
@[simp] theorem State.setChan_errWord (i : SbIdx) (k : Ch) (c : Chan) : (s.setChan i k c).errWord = s.errWord := rfl
@[simp] theorem State.setChan_errSrc (i : SbIdx) (k : Ch) (c : Chan) : (s.setChan i k c).errSrc = s.errSrc := rfl
@[simp] theorem State.setChan_errGran (i : SbIdx) (k : Ch) (c : Chan) : (s.setChan i k c).errGran = s.errGran := rfl
@[simp] theorem State.setChan_bitcnt (i : SbIdx) (k : Ch) (c : Chan) : (s.setChan i k c).bitcnt = s.bitcnt := rfl
@[simp] theorem State.setChan_sb (i : SbIdx) (k : Ch) (c : Chan) :
    (s.setChan i k c).sb = (s.setEntry i ((s.entry i).withCh k c)).sb := rfl
@[simp] theorem State.setChan_outstanding (i : SbIdx) (k : Ch) (c : Chan) :
    (s.setChan i k c).outstanding = s.outstanding := rfl
@[simp] theorem State.setChan_inFlight (i : SbIdx) (k : Ch) (c : Chan) :
    (s.setChan i k c).inFlight = s.inFlight := rfl
@[simp] theorem State.setChan_pins (i : SbIdx) (k : Ch) (c : Chan) : (s.setChan i k c).pins = s.pins := rfl
@[simp] theorem State.setChan_inputs (i : SbIdx) (k : Ch) (c : Chan) : (s.setChan i k c).inputs = s.inputs := rfl
@[simp] theorem State.setChan_budget (i : SbIdx) (k : Ch) (c : Chan) : (s.setChan i k c).budget = s.budget := rfl
@[simp] theorem State.setChan_br (i : SbIdx) (k : Ch) (c : Chan) : (s.setChan i k c).br = s.br := rfl
@[simp] theorem State.setChan_crc (i : SbIdx) (k : Ch) (c : Chan) : (s.setChan i k c).crc = s.crc := rfl
@[simp] theorem State.setChan_fa (i : SbIdx) (k : Ch) (c : Chan) : (s.setChan i k c).fa = s.fa := rfl
@[simp] theorem State.setChan_fb (i : SbIdx) (k : Ch) (c : Chan) : (s.setChan i k c).fb = s.fb := rfl
@[simp] theorem State.setChan_trace (i : SbIdx) (k : Ch) (c : Chan) : (s.setChan i k c).trace = s.trace := rfl
@[simp] theorem State.setChan_params (i : SbIdx) (k : Ch) (c : Chan) : (s.setChan i k c).params = s.params := rfl
@[simp] theorem State.setChan_freeCount (i : SbIdx) (k : Ch) (c : Chan) :
    (s.setChan i k c).freeCount = s.freeCount := rfl

/-! ## `setAlloc` -/

@[simp] theorem State.setAlloc_created (i : SbIdx) (k : Ch) (a : BitVec 4) :
    (s.setAlloc i k a).created = s.created := rfl
@[simp] theorem State.setAlloc_sel (i : SbIdx) (k : Ch) (a : BitVec 4) : (s.setAlloc i k a).sel = s.sel := rfl
@[simp] theorem State.setAlloc_crcPresent (i : SbIdx) (k : Ch) (a : BitVec 4) :
    (s.setAlloc i k a).crcPresent = s.crcPresent := rfl
@[simp] theorem State.setAlloc_mode (i : SbIdx) (k : Ch) (a : BitVec 4) : (s.setAlloc i k a).mode = s.mode := rfl
@[simp] theorem State.setAlloc_n (i : SbIdx) (k : Ch) (a : BitVec 4) : (s.setAlloc i k a).n = s.n := rfl
@[simp] theorem State.setAlloc_b (i : SbIdx) (k : Ch) (a : BitVec 4) : (s.setAlloc i k a).b = s.b := rfl
@[simp] theorem State.setAlloc_guard (i : SbIdx) (k : Ch) (a : BitVec 4) : (s.setAlloc i k a).guard = s.guard := rfl
@[simp] theorem State.setAlloc_rready (i : SbIdx) (k : Ch) (a : BitVec 4) :
    (s.setAlloc i k a).rready = s.rready := rfl
@[simp] theorem State.setAlloc_wready (i : SbIdx) (k : Ch) (a : BitVec 4) :
    (s.setAlloc i k a).wready = s.wready := rfl
@[simp] theorem State.setAlloc_fsm (i : SbIdx) (k : Ch) (a : BitVec 4) : (s.setAlloc i k a).fsm = s.fsm := rfl
@[simp] theorem State.setAlloc_seqI (i : SbIdx) (k : Ch) (a : BitVec 4) : (s.setAlloc i k a).seqI = s.seqI := rfl
@[simp] theorem State.setAlloc_seqPh (i : SbIdx) (k : Ch) (a : BitVec 4) : (s.setAlloc i k a).seqPh = s.seqPh := rfl
@[simp] theorem State.setAlloc_seqG (i : SbIdx) (k : Ch) (a : BitVec 4) : (s.setAlloc i k a).seqG = s.seqG := rfl
@[simp] theorem State.setAlloc_cause (i : SbIdx) (k : Ch) (a : BitVec 4) : (s.setAlloc i k a).cause = s.cause := rfl
@[simp] theorem State.setAlloc_errWord (i : SbIdx) (k : Ch) (a : BitVec 4) :
    (s.setAlloc i k a).errWord = s.errWord := rfl
@[simp] theorem State.setAlloc_errSrc (i : SbIdx) (k : Ch) (a : BitVec 4) :
    (s.setAlloc i k a).errSrc = s.errSrc := rfl
@[simp] theorem State.setAlloc_errGran (i : SbIdx) (k : Ch) (a : BitVec 4) :
    (s.setAlloc i k a).errGran = s.errGran := rfl
@[simp] theorem State.setAlloc_bitcnt (i : SbIdx) (k : Ch) (a : BitVec 4) :
    (s.setAlloc i k a).bitcnt = s.bitcnt := rfl
@[simp] theorem State.setAlloc_sb (i : SbIdx) (k : Ch) (a : BitVec 4) :
    (s.setAlloc i k a).sb = (s.setChan i k ((s.chan i k).withAlloc s.params.offsetVariant a)).sb := rfl
@[simp] theorem State.setAlloc_outstanding (i : SbIdx) (k : Ch) (a : BitVec 4) :
    (s.setAlloc i k a).outstanding = s.outstanding := rfl
@[simp] theorem State.setAlloc_inFlight (i : SbIdx) (k : Ch) (a : BitVec 4) :
    (s.setAlloc i k a).inFlight = s.inFlight := rfl
@[simp] theorem State.setAlloc_pins (i : SbIdx) (k : Ch) (a : BitVec 4) : (s.setAlloc i k a).pins = s.pins := rfl
@[simp] theorem State.setAlloc_inputs (i : SbIdx) (k : Ch) (a : BitVec 4) :
    (s.setAlloc i k a).inputs = s.inputs := rfl
@[simp] theorem State.setAlloc_budget (i : SbIdx) (k : Ch) (a : BitVec 4) :
    (s.setAlloc i k a).budget = s.budget := rfl
@[simp] theorem State.setAlloc_br (i : SbIdx) (k : Ch) (a : BitVec 4) : (s.setAlloc i k a).br = s.br := rfl
@[simp] theorem State.setAlloc_crc (i : SbIdx) (k : Ch) (a : BitVec 4) : (s.setAlloc i k a).crc = s.crc := rfl
@[simp] theorem State.setAlloc_fa (i : SbIdx) (k : Ch) (a : BitVec 4) : (s.setAlloc i k a).fa = s.fa := rfl
@[simp] theorem State.setAlloc_fb (i : SbIdx) (k : Ch) (a : BitVec 4) : (s.setAlloc i k a).fb = s.fb := rfl
@[simp] theorem State.setAlloc_trace (i : SbIdx) (k : Ch) (a : BitVec 4) : (s.setAlloc i k a).trace = s.trace := rfl
@[simp] theorem State.setAlloc_params (i : SbIdx) (k : Ch) (a : BitVec 4) :
    (s.setAlloc i k a).params = s.params := rfl
@[simp] theorem State.setAlloc_freeCount (i : SbIdx) (k : Ch) (a : BitVec 4) :
    (s.setAlloc i k a).freeCount = s.freeCount := rfl

/-! ## `setScf` -/

@[simp] theorem State.setScf_created (i : SbIdx) (k : Ch) (c : BitVec 6) : (s.setScf i k c).created = s.created := rfl
@[simp] theorem State.setScf_sel (i : SbIdx) (k : Ch) (c : BitVec 6) : (s.setScf i k c).sel = s.sel := rfl
@[simp] theorem State.setScf_crcPresent (i : SbIdx) (k : Ch) (c : BitVec 6) :
    (s.setScf i k c).crcPresent = s.crcPresent := rfl
@[simp] theorem State.setScf_mode (i : SbIdx) (k : Ch) (c : BitVec 6) : (s.setScf i k c).mode = s.mode := rfl
@[simp] theorem State.setScf_n (i : SbIdx) (k : Ch) (c : BitVec 6) : (s.setScf i k c).n = s.n := rfl
@[simp] theorem State.setScf_b (i : SbIdx) (k : Ch) (c : BitVec 6) : (s.setScf i k c).b = s.b := rfl
@[simp] theorem State.setScf_guard (i : SbIdx) (k : Ch) (c : BitVec 6) : (s.setScf i k c).guard = s.guard := rfl
@[simp] theorem State.setScf_rready (i : SbIdx) (k : Ch) (c : BitVec 6) : (s.setScf i k c).rready = s.rready := rfl
@[simp] theorem State.setScf_wready (i : SbIdx) (k : Ch) (c : BitVec 6) : (s.setScf i k c).wready = s.wready := rfl
@[simp] theorem State.setScf_fsm (i : SbIdx) (k : Ch) (c : BitVec 6) : (s.setScf i k c).fsm = s.fsm := rfl
@[simp] theorem State.setScf_seqI (i : SbIdx) (k : Ch) (c : BitVec 6) : (s.setScf i k c).seqI = s.seqI := rfl
@[simp] theorem State.setScf_seqPh (i : SbIdx) (k : Ch) (c : BitVec 6) : (s.setScf i k c).seqPh = s.seqPh := rfl
@[simp] theorem State.setScf_seqG (i : SbIdx) (k : Ch) (c : BitVec 6) : (s.setScf i k c).seqG = s.seqG := rfl
@[simp] theorem State.setScf_cause (i : SbIdx) (k : Ch) (c : BitVec 6) : (s.setScf i k c).cause = s.cause := rfl
@[simp] theorem State.setScf_errWord (i : SbIdx) (k : Ch) (c : BitVec 6) : (s.setScf i k c).errWord = s.errWord := rfl
@[simp] theorem State.setScf_errSrc (i : SbIdx) (k : Ch) (c : BitVec 6) : (s.setScf i k c).errSrc = s.errSrc := rfl
@[simp] theorem State.setScf_errGran (i : SbIdx) (k : Ch) (c : BitVec 6) : (s.setScf i k c).errGran = s.errGran := rfl
@[simp] theorem State.setScf_bitcnt (i : SbIdx) (k : Ch) (c : BitVec 6) : (s.setScf i k c).bitcnt = s.bitcnt := rfl
@[simp] theorem State.setScf_sb (i : SbIdx) (k : Ch) (c : BitVec 6) :
    (s.setScf i k c).sb = (s.setChan i k { s.chan i k with scfi := c, scf := scfRom c }).sb := rfl
@[simp] theorem State.setScf_outstanding (i : SbIdx) (k : Ch) (c : BitVec 6) :
    (s.setScf i k c).outstanding = s.outstanding := rfl
@[simp] theorem State.setScf_inFlight (i : SbIdx) (k : Ch) (c : BitVec 6) :
    (s.setScf i k c).inFlight = s.inFlight := rfl
@[simp] theorem State.setScf_pins (i : SbIdx) (k : Ch) (c : BitVec 6) : (s.setScf i k c).pins = s.pins := rfl
@[simp] theorem State.setScf_inputs (i : SbIdx) (k : Ch) (c : BitVec 6) : (s.setScf i k c).inputs = s.inputs := rfl
@[simp] theorem State.setScf_budget (i : SbIdx) (k : Ch) (c : BitVec 6) : (s.setScf i k c).budget = s.budget := rfl
@[simp] theorem State.setScf_br (i : SbIdx) (k : Ch) (c : BitVec 6) : (s.setScf i k c).br = s.br := rfl
@[simp] theorem State.setScf_crc (i : SbIdx) (k : Ch) (c : BitVec 6) : (s.setScf i k c).crc = s.crc := rfl
@[simp] theorem State.setScf_fa (i : SbIdx) (k : Ch) (c : BitVec 6) : (s.setScf i k c).fa = s.fa := rfl
@[simp] theorem State.setScf_fb (i : SbIdx) (k : Ch) (c : BitVec 6) : (s.setScf i k c).fb = s.fb := rfl
@[simp] theorem State.setScf_trace (i : SbIdx) (k : Ch) (c : BitVec 6) : (s.setScf i k c).trace = s.trace := rfl
@[simp] theorem State.setScf_params (i : SbIdx) (k : Ch) (c : BitVec 6) : (s.setScf i k c).params = s.params := rfl
@[simp] theorem State.setScf_freeCount (i : SbIdx) (k : Ch) (c : BitVec 6) :
    (s.setScf i k c).freeCount = s.freeCount := rfl

/-! ## `setRaw` -/

@[simp] theorem State.setRaw_created (i : SbIdx) (k : Ch) (v : Nat) : (s.setRaw i k v).created = s.created := rfl
@[simp] theorem State.setRaw_sel (i : SbIdx) (k : Ch) (v : Nat) : (s.setRaw i k v).sel = s.sel := rfl
@[simp] theorem State.setRaw_crcPresent (i : SbIdx) (k : Ch) (v : Nat) :
    (s.setRaw i k v).crcPresent = s.crcPresent := rfl
@[simp] theorem State.setRaw_mode (i : SbIdx) (k : Ch) (v : Nat) : (s.setRaw i k v).mode = s.mode := rfl
@[simp] theorem State.setRaw_n (i : SbIdx) (k : Ch) (v : Nat) : (s.setRaw i k v).n = s.n := rfl
@[simp] theorem State.setRaw_b (i : SbIdx) (k : Ch) (v : Nat) : (s.setRaw i k v).b = s.b := rfl
@[simp] theorem State.setRaw_guard (i : SbIdx) (k : Ch) (v : Nat) : (s.setRaw i k v).guard = s.guard := rfl
@[simp] theorem State.setRaw_rready (i : SbIdx) (k : Ch) (v : Nat) : (s.setRaw i k v).rready = s.rready := rfl
@[simp] theorem State.setRaw_wready (i : SbIdx) (k : Ch) (v : Nat) : (s.setRaw i k v).wready = s.wready := rfl
@[simp] theorem State.setRaw_fsm (i : SbIdx) (k : Ch) (v : Nat) : (s.setRaw i k v).fsm = s.fsm := rfl
@[simp] theorem State.setRaw_seqI (i : SbIdx) (k : Ch) (v : Nat) : (s.setRaw i k v).seqI = s.seqI := rfl
@[simp] theorem State.setRaw_seqPh (i : SbIdx) (k : Ch) (v : Nat) : (s.setRaw i k v).seqPh = s.seqPh := rfl
@[simp] theorem State.setRaw_seqG (i : SbIdx) (k : Ch) (v : Nat) : (s.setRaw i k v).seqG = s.seqG := rfl
@[simp] theorem State.setRaw_cause (i : SbIdx) (k : Ch) (v : Nat) : (s.setRaw i k v).cause = s.cause := rfl
@[simp] theorem State.setRaw_errWord (i : SbIdx) (k : Ch) (v : Nat) : (s.setRaw i k v).errWord = s.errWord := rfl
@[simp] theorem State.setRaw_errSrc (i : SbIdx) (k : Ch) (v : Nat) : (s.setRaw i k v).errSrc = s.errSrc := rfl
@[simp] theorem State.setRaw_errGran (i : SbIdx) (k : Ch) (v : Nat) : (s.setRaw i k v).errGran = s.errGran := rfl
@[simp] theorem State.setRaw_bitcnt (i : SbIdx) (k : Ch) (v : Nat) : (s.setRaw i k v).bitcnt = s.bitcnt := rfl
@[simp] theorem State.setRaw_sb (i : SbIdx) (k : Ch) (v : Nat) :
    (s.setRaw i k v).sb = (s.setChan i k { s.chan i k with raw := BitVec.ofNat 16 v }).sb := rfl
@[simp] theorem State.setRaw_outstanding (i : SbIdx) (k : Ch) (v : Nat) :
    (s.setRaw i k v).outstanding = s.outstanding := rfl
@[simp] theorem State.setRaw_inFlight (i : SbIdx) (k : Ch) (v : Nat) : (s.setRaw i k v).inFlight = s.inFlight := rfl
@[simp] theorem State.setRaw_pins (i : SbIdx) (k : Ch) (v : Nat) : (s.setRaw i k v).pins = s.pins := rfl
@[simp] theorem State.setRaw_inputs (i : SbIdx) (k : Ch) (v : Nat) : (s.setRaw i k v).inputs = s.inputs := rfl
@[simp] theorem State.setRaw_budget (i : SbIdx) (k : Ch) (v : Nat) : (s.setRaw i k v).budget = s.budget := rfl
@[simp] theorem State.setRaw_br (i : SbIdx) (k : Ch) (v : Nat) : (s.setRaw i k v).br = s.br := rfl
@[simp] theorem State.setRaw_crc (i : SbIdx) (k : Ch) (v : Nat) : (s.setRaw i k v).crc = s.crc := rfl
@[simp] theorem State.setRaw_fa (i : SbIdx) (k : Ch) (v : Nat) : (s.setRaw i k v).fa = s.fa := rfl
@[simp] theorem State.setRaw_fb (i : SbIdx) (k : Ch) (v : Nat) : (s.setRaw i k v).fb = s.fb := rfl
@[simp] theorem State.setRaw_trace (i : SbIdx) (k : Ch) (v : Nat) : (s.setRaw i k v).trace = s.trace := rfl
@[simp] theorem State.setRaw_params (i : SbIdx) (k : Ch) (v : Nat) : (s.setRaw i k v).params = s.params := rfl
@[simp] theorem State.setRaw_freeCount (i : SbIdx) (k : Ch) (v : Nat) :
    (s.setRaw i k v).freeCount = s.freeCount := rfl

/-! ## `granuleStep` -/

@[simp] theorem State.granuleStep_created (i : SbIdx) : (s.granuleStep i).created = s.created := rfl
@[simp] theorem State.granuleStep_sel (i : SbIdx) : (s.granuleStep i).sel = s.sel := rfl
@[simp] theorem State.granuleStep_crcPresent (i : SbIdx) : (s.granuleStep i).crcPresent = s.crcPresent := rfl
@[simp] theorem State.granuleStep_mode (i : SbIdx) : (s.granuleStep i).mode = s.mode := rfl
@[simp] theorem State.granuleStep_n (i : SbIdx) : (s.granuleStep i).n = s.n := rfl
@[simp] theorem State.granuleStep_b (i : SbIdx) : (s.granuleStep i).b = s.b := rfl
@[simp] theorem State.granuleStep_guard (i : SbIdx) : (s.granuleStep i).guard = s.guard := rfl
@[simp] theorem State.granuleStep_rready (i : SbIdx) : (s.granuleStep i).rready = readReadyAt (s.entry i).gcnt := rfl
@[simp] theorem State.granuleStep_wready (i : SbIdx) : (s.granuleStep i).wready = s.wready := rfl
@[simp] theorem State.granuleStep_fsm (i : SbIdx) : (s.granuleStep i).fsm = s.fsm := rfl
@[simp] theorem State.granuleStep_seqI (i : SbIdx) : (s.granuleStep i).seqI = s.seqI := rfl
@[simp] theorem State.granuleStep_seqPh (i : SbIdx) : (s.granuleStep i).seqPh = s.seqPh := rfl
@[simp] theorem State.granuleStep_seqG (i : SbIdx) : (s.granuleStep i).seqG = s.seqG := rfl
@[simp] theorem State.granuleStep_cause (i : SbIdx) : (s.granuleStep i).cause = s.cause := rfl
@[simp] theorem State.granuleStep_errWord (i : SbIdx) : (s.granuleStep i).errWord = s.errWord := rfl
@[simp] theorem State.granuleStep_errSrc (i : SbIdx) : (s.granuleStep i).errSrc = s.errSrc := rfl
@[simp] theorem State.granuleStep_errGran (i : SbIdx) : (s.granuleStep i).errGran = s.errGran := rfl
@[simp] theorem State.granuleStep_bitcnt (i : SbIdx) : (s.granuleStep i).bitcnt = s.bitcnt := rfl
@[simp] theorem State.granuleStep_sb (i : SbIdx) :
    (s.granuleStep i).sb = (s.setEntry i { s.entry i with gcnt := nextGcnt (s.entry i).gcnt }).sb := rfl
@[simp] theorem State.granuleStep_outstanding (i : SbIdx) : (s.granuleStep i).outstanding = s.outstanding := rfl
@[simp] theorem State.granuleStep_inFlight (i : SbIdx) : (s.granuleStep i).inFlight = s.inFlight := rfl
@[simp] theorem State.granuleStep_pins (i : SbIdx) : (s.granuleStep i).pins = s.pins := rfl
@[simp] theorem State.granuleStep_inputs (i : SbIdx) : (s.granuleStep i).inputs = s.inputs := rfl
@[simp] theorem State.granuleStep_budget (i : SbIdx) : (s.granuleStep i).budget = s.budget := rfl
@[simp] theorem State.granuleStep_br (i : SbIdx) : (s.granuleStep i).br = s.br := rfl
@[simp] theorem State.granuleStep_crc (i : SbIdx) : (s.granuleStep i).crc = s.crc := rfl
@[simp] theorem State.granuleStep_fa (i : SbIdx) : (s.granuleStep i).fa = s.fa := rfl
@[simp] theorem State.granuleStep_fb (i : SbIdx) : (s.granuleStep i).fb = s.fb := rfl
@[simp] theorem State.granuleStep_trace (i : SbIdx) : (s.granuleStep i).trace = s.trace := rfl
@[simp] theorem State.granuleStep_params (i : SbIdx) : (s.granuleStep i).params = s.params := rfl
@[simp] theorem State.granuleStep_freeCount (i : SbIdx) : (s.granuleStep i).freeCount = s.freeCount := rfl

/-! ## `clearValid` -/

@[simp] theorem State.clearValid_created : (s.clearValid).created = s.created := rfl
@[simp] theorem State.clearValid_sel : (s.clearValid).sel = s.sel := rfl
@[simp] theorem State.clearValid_crcPresent : (s.clearValid).crcPresent = s.crcPresent := rfl
@[simp] theorem State.clearValid_mode : (s.clearValid).mode = s.mode := rfl
@[simp] theorem State.clearValid_n : (s.clearValid).n = s.n := rfl
@[simp] theorem State.clearValid_b : (s.clearValid).b = s.b := rfl
@[simp] theorem State.clearValid_guard : (s.clearValid).guard = s.guard := rfl
@[simp] theorem State.clearValid_rready : (s.clearValid).rready = s.rready := rfl
@[simp] theorem State.clearValid_wready : (s.clearValid).wready = s.wready := rfl
@[simp] theorem State.clearValid_fsm : (s.clearValid).fsm = s.fsm := rfl
@[simp] theorem State.clearValid_seqI : (s.clearValid).seqI = s.seqI := rfl
@[simp] theorem State.clearValid_seqPh : (s.clearValid).seqPh = s.seqPh := rfl
@[simp] theorem State.clearValid_seqG : (s.clearValid).seqG = s.seqG := rfl
@[simp] theorem State.clearValid_cause : (s.clearValid).cause = s.cause := rfl
@[simp] theorem State.clearValid_errWord : (s.clearValid).errWord = s.errWord := rfl
@[simp] theorem State.clearValid_errSrc : (s.clearValid).errSrc = s.errSrc := rfl
@[simp] theorem State.clearValid_errGran : (s.clearValid).errGran = s.errGran := rfl
@[simp] theorem State.clearValid_bitcnt : (s.clearValid).bitcnt = s.bitcnt := rfl
@[simp] theorem State.clearValid_sb : (s.clearValid).sb = s.sb.map fun e => { e with valid := false } := rfl
@[simp] theorem State.clearValid_outstanding : (s.clearValid).outstanding = s.outstanding := rfl
@[simp] theorem State.clearValid_inFlight : (s.clearValid).inFlight = s.inFlight := rfl
@[simp] theorem State.clearValid_pins : (s.clearValid).pins = s.pins := rfl
@[simp] theorem State.clearValid_inputs : (s.clearValid).inputs = s.inputs := rfl
@[simp] theorem State.clearValid_budget : (s.clearValid).budget = s.budget := rfl
@[simp] theorem State.clearValid_br : (s.clearValid).br = s.br := rfl
@[simp] theorem State.clearValid_crc : (s.clearValid).crc = s.crc := rfl
@[simp] theorem State.clearValid_fa : (s.clearValid).fa = s.fa := rfl
@[simp] theorem State.clearValid_fb : (s.clearValid).fb = s.fb := rfl
@[simp] theorem State.clearValid_trace : (s.clearValid).trace = s.trace := rfl
@[simp] theorem State.clearValid_params : (s.clearValid).params = s.params := rfl
@[simp] theorem State.clearValid_freeCount : (s.clearValid).freeCount = s.freeCount := rfl

/-! ## `spoilEntries` -/

@[simp] theorem State.spoilEntries_created : (s.spoilEntries).created = s.created := rfl
@[simp] theorem State.spoilEntries_sel : (s.spoilEntries).sel = s.sel := rfl
@[simp] theorem State.spoilEntries_crcPresent : (s.spoilEntries).crcPresent = s.crcPresent := rfl
@[simp] theorem State.spoilEntries_mode : (s.spoilEntries).mode = s.mode := rfl
@[simp] theorem State.spoilEntries_n : (s.spoilEntries).n = s.n := rfl
@[simp] theorem State.spoilEntries_b : (s.spoilEntries).b = s.b := rfl
@[simp] theorem State.spoilEntries_guard : (s.spoilEntries).guard = s.guard := rfl
@[simp] theorem State.spoilEntries_rready : (s.spoilEntries).rready = s.rready := rfl
@[simp] theorem State.spoilEntries_wready : (s.spoilEntries).wready = s.wready := rfl
@[simp] theorem State.spoilEntries_fsm : (s.spoilEntries).fsm = s.fsm := rfl
@[simp] theorem State.spoilEntries_seqI : (s.spoilEntries).seqI = s.seqI := rfl
@[simp] theorem State.spoilEntries_seqPh : (s.spoilEntries).seqPh = s.seqPh := rfl
@[simp] theorem State.spoilEntries_seqG : (s.spoilEntries).seqG = s.seqG := rfl
@[simp] theorem State.spoilEntries_cause : (s.spoilEntries).cause = s.cause := rfl
@[simp] theorem State.spoilEntries_errWord : (s.spoilEntries).errWord = s.errWord := rfl
@[simp] theorem State.spoilEntries_errSrc : (s.spoilEntries).errSrc = s.errSrc := rfl
@[simp] theorem State.spoilEntries_errGran : (s.spoilEntries).errGran = s.errGran := rfl
@[simp] theorem State.spoilEntries_bitcnt : (s.spoilEntries).bitcnt = s.bitcnt := rfl
@[simp] theorem State.spoilEntries_sb :
    (s.spoilEntries).sb = s.sb.map fun e => if e.valid then SbEntry.free s.freeCount e.idx else e := rfl
@[simp] theorem State.spoilEntries_outstanding : (s.spoilEntries).outstanding = s.outstanding := rfl
@[simp] theorem State.spoilEntries_inFlight : (s.spoilEntries).inFlight = s.inFlight := rfl
@[simp] theorem State.spoilEntries_pins : (s.spoilEntries).pins = s.pins := rfl
@[simp] theorem State.spoilEntries_inputs : (s.spoilEntries).inputs = s.inputs := rfl
@[simp] theorem State.spoilEntries_budget : (s.spoilEntries).budget = s.budget := rfl
@[simp] theorem State.spoilEntries_br : (s.spoilEntries).br = s.br := rfl
@[simp] theorem State.spoilEntries_crc : (s.spoilEntries).crc = s.crc := rfl
@[simp] theorem State.spoilEntries_fa : (s.spoilEntries).fa = s.fa := rfl
@[simp] theorem State.spoilEntries_fb : (s.spoilEntries).fb = s.fb := rfl
@[simp] theorem State.spoilEntries_trace : (s.spoilEntries).trace = s.trace := rfl
@[simp] theorem State.spoilEntries_params : (s.spoilEntries).params = s.params := rfl
@[simp] theorem State.spoilEntries_freeCount : (s.spoilEntries).freeCount = s.freeCount + 1 := rfl

/-! ## `raiseFault` -/

@[simp] theorem State.raiseFault_created (c : Cause) (w : Word) (src : ErrSrc) :
    (s.raiseFault c w src).created = s.created := rfl
@[simp] theorem State.raiseFault_sel (c : Cause) (w : Word) (src : ErrSrc) : (s.raiseFault c w src).sel = s.sel := rfl
@[simp] theorem State.raiseFault_crcPresent (c : Cause) (w : Word) (src : ErrSrc) :
    (s.raiseFault c w src).crcPresent = s.crcPresent := rfl
@[simp] theorem State.raiseFault_mode (c : Cause) (w : Word) (src : ErrSrc) :
    (s.raiseFault c w src).mode = s.mode := rfl
@[simp] theorem State.raiseFault_n (c : Cause) (w : Word) (src : ErrSrc) : (s.raiseFault c w src).n = s.n := rfl
@[simp] theorem State.raiseFault_b (c : Cause) (w : Word) (src : ErrSrc) : (s.raiseFault c w src).b = s.b := rfl
@[simp] theorem State.raiseFault_guard (c : Cause) (w : Word) (src : ErrSrc) :
    (s.raiseFault c w src).guard = s.guard := rfl
@[simp] theorem State.raiseFault_rready (c : Cause) (w : Word) (src : ErrSrc) :
    (s.raiseFault c w src).rready = s.rready := rfl
@[simp] theorem State.raiseFault_wready (c : Cause) (w : Word) (src : ErrSrc) :
    (s.raiseFault c w src).wready = s.wready := rfl
@[simp] theorem State.raiseFault_fsm (c : Cause) (w : Word) (src : ErrSrc) :
    (s.raiseFault c w src).fsm = .error := rfl
@[simp] theorem State.raiseFault_seqI (c : Cause) (w : Word) (src : ErrSrc) :
    (s.raiseFault c w src).seqI = s.seqI := rfl
@[simp] theorem State.raiseFault_seqPh (c : Cause) (w : Word) (src : ErrSrc) :
    (s.raiseFault c w src).seqPh = s.seqPh := rfl
@[simp] theorem State.raiseFault_seqG (c : Cause) (w : Word) (src : ErrSrc) :
    (s.raiseFault c w src).seqG = s.seqG := rfl
@[simp] theorem State.raiseFault_cause (c : Cause) (w : Word) (src : ErrSrc) : (s.raiseFault c w src).cause = c := rfl
@[simp] theorem State.raiseFault_errWord (c : Cause) (w : Word) (src : ErrSrc) :
    (s.raiseFault c w src).errWord = w := rfl
@[simp] theorem State.raiseFault_errSrc (c : Cause) (w : Word) (src : ErrSrc) :
    (s.raiseFault c w src).errSrc = src := rfl
@[simp] theorem State.raiseFault_errGran (c : Cause) (w : Word) (src : ErrSrc) :
    (s.raiseFault c w src).errGran = s.seqG := rfl
@[simp] theorem State.raiseFault_bitcnt (c : Cause) (w : Word) (src : ErrSrc) :
    (s.raiseFault c w src).bitcnt = s.bitcnt := rfl
@[simp] theorem State.raiseFault_sb (c : Cause) (w : Word) (src : ErrSrc) : (s.raiseFault c w src).sb = s.sb := rfl
@[simp] theorem State.raiseFault_outstanding (c : Cause) (w : Word) (src : ErrSrc) :
    (s.raiseFault c w src).outstanding = s.outstanding := rfl
@[simp] theorem State.raiseFault_inFlight (c : Cause) (w : Word) (src : ErrSrc) :
    (s.raiseFault c w src).inFlight = s.inFlight := rfl
@[simp] theorem State.raiseFault_pins (c : Cause) (w : Word) (src : ErrSrc) :
    (s.raiseFault c w src).pins = s.pins := rfl
@[simp] theorem State.raiseFault_inputs (c : Cause) (w : Word) (src : ErrSrc) :
    (s.raiseFault c w src).inputs = s.inputs := rfl
@[simp] theorem State.raiseFault_budget (c : Cause) (w : Word) (src : ErrSrc) :
    (s.raiseFault c w src).budget = s.budget := rfl
@[simp] theorem State.raiseFault_br (c : Cause) (w : Word) (src : ErrSrc) : (s.raiseFault c w src).br = s.br := rfl
@[simp] theorem State.raiseFault_crc (c : Cause) (w : Word) (src : ErrSrc) : (s.raiseFault c w src).crc = s.crc := rfl
@[simp] theorem State.raiseFault_fa (c : Cause) (w : Word) (src : ErrSrc) : (s.raiseFault c w src).fa = s.fa := rfl
@[simp] theorem State.raiseFault_fb (c : Cause) (w : Word) (src : ErrSrc) : (s.raiseFault c w src).fb = s.fb := rfl
@[simp] theorem State.raiseFault_trace (c : Cause) (w : Word) (src : ErrSrc) :
    (s.raiseFault c w src).trace = s.trace := rfl
@[simp] theorem State.raiseFault_params (c : Cause) (w : Word) (src : ErrSrc) :
    (s.raiseFault c w src).params = s.params := rfl
@[simp] theorem State.raiseFault_freeCount (c : Cause) (w : Word) (src : ErrSrc) :
    (s.raiseFault c w src).freeCount = s.freeCount := rfl

/-! ## `clearFault` -/

@[simp] theorem State.clearFault_created : (s.clearFault).created = s.created := rfl
@[simp] theorem State.clearFault_sel : (s.clearFault).sel = s.sel := rfl
@[simp] theorem State.clearFault_crcPresent : (s.clearFault).crcPresent = s.crcPresent := rfl
@[simp] theorem State.clearFault_mode : (s.clearFault).mode = s.mode := rfl
@[simp] theorem State.clearFault_n : (s.clearFault).n = s.n := rfl
@[simp] theorem State.clearFault_b : (s.clearFault).b = s.b := rfl
@[simp] theorem State.clearFault_guard : (s.clearFault).guard = s.guard := rfl
@[simp] theorem State.clearFault_rready : (s.clearFault).rready = s.rready := rfl
@[simp] theorem State.clearFault_wready : (s.clearFault).wready = s.wready := rfl
@[simp] theorem State.clearFault_fsm : (s.clearFault).fsm = s.fsm := rfl
@[simp] theorem State.clearFault_seqI : (s.clearFault).seqI = s.seqI := rfl
@[simp] theorem State.clearFault_seqPh : (s.clearFault).seqPh = s.seqPh := rfl
@[simp] theorem State.clearFault_seqG : (s.clearFault).seqG = s.seqG := rfl
@[simp] theorem State.clearFault_cause : (s.clearFault).cause = .none := rfl
@[simp] theorem State.clearFault_errWord : (s.clearFault).errWord = 0#16 := rfl
@[simp] theorem State.clearFault_errSrc : (s.clearFault).errSrc = .uop := rfl
@[simp] theorem State.clearFault_errGran : (s.clearFault).errGran = 0#4 := rfl
@[simp] theorem State.clearFault_bitcnt : (s.clearFault).bitcnt = s.bitcnt := rfl
@[simp] theorem State.clearFault_sb : (s.clearFault).sb = s.sb := rfl
@[simp] theorem State.clearFault_outstanding : (s.clearFault).outstanding = s.outstanding := rfl
@[simp] theorem State.clearFault_inFlight : (s.clearFault).inFlight = s.inFlight := rfl
@[simp] theorem State.clearFault_pins : (s.clearFault).pins = s.pins := rfl
@[simp] theorem State.clearFault_inputs : (s.clearFault).inputs = s.inputs := rfl
@[simp] theorem State.clearFault_budget : (s.clearFault).budget = s.budget := rfl
@[simp] theorem State.clearFault_br : (s.clearFault).br = s.br := rfl
@[simp] theorem State.clearFault_crc : (s.clearFault).crc = s.crc := rfl
@[simp] theorem State.clearFault_fa : (s.clearFault).fa = s.fa := rfl
@[simp] theorem State.clearFault_fb : (s.clearFault).fb = s.fb := rfl
@[simp] theorem State.clearFault_trace : (s.clearFault).trace = s.trace := rfl
@[simp] theorem State.clearFault_params : (s.clearFault).params = s.params := rfl
@[simp] theorem State.clearFault_freeCount : (s.clearFault).freeCount = s.freeCount := rfl

/-! ## `uopFault` -/

@[simp] theorem State.uopFault_created (c : UopCtx) (x : Cause) : (s.uopFault c x).created = s.created := rfl
@[simp] theorem State.uopFault_sel (c : UopCtx) (x : Cause) : (s.uopFault c x).sel = s.sel := rfl
@[simp] theorem State.uopFault_crcPresent (c : UopCtx) (x : Cause) : (s.uopFault c x).crcPresent = s.crcPresent := rfl
@[simp] theorem State.uopFault_mode (c : UopCtx) (x : Cause) : (s.uopFault c x).mode = s.mode := rfl
@[simp] theorem State.uopFault_n (c : UopCtx) (x : Cause) : (s.uopFault c x).n = s.n := rfl
@[simp] theorem State.uopFault_b (c : UopCtx) (x : Cause) : (s.uopFault c x).b = s.b := rfl
@[simp] theorem State.uopFault_guard (c : UopCtx) (x : Cause) : (s.uopFault c x).guard = s.guard := rfl
@[simp] theorem State.uopFault_rready (c : UopCtx) (x : Cause) : (s.uopFault c x).rready = s.rready := rfl
@[simp] theorem State.uopFault_wready (c : UopCtx) (x : Cause) : (s.uopFault c x).wready = s.wready := rfl
@[simp] theorem State.uopFault_fsm (c : UopCtx) (x : Cause) : (s.uopFault c x).fsm = .error := rfl
@[simp] theorem State.uopFault_seqI (c : UopCtx) (x : Cause) : (s.uopFault c x).seqI = s.seqI := rfl
@[simp] theorem State.uopFault_seqPh (c : UopCtx) (x : Cause) : (s.uopFault c x).seqPh = s.seqPh := rfl
@[simp] theorem State.uopFault_seqG (c : UopCtx) (x : Cause) : (s.uopFault c x).seqG = s.seqG := rfl
@[simp] theorem State.uopFault_cause (c : UopCtx) (x : Cause) : (s.uopFault c x).cause = x := rfl
@[simp] theorem State.uopFault_errWord (c : UopCtx) (x : Cause) : (s.uopFault c x).errWord = c.word := rfl
@[simp] theorem State.uopFault_errSrc (c : UopCtx) (x : Cause) : (s.uopFault c x).errSrc = .uop := rfl
@[simp] theorem State.uopFault_errGran (c : UopCtx) (x : Cause) : (s.uopFault c x).errGran = s.seqG := rfl
@[simp] theorem State.uopFault_bitcnt (c : UopCtx) (x : Cause) : (s.uopFault c x).bitcnt = s.bitcnt := rfl
@[simp] theorem State.uopFault_sb (c : UopCtx) (x : Cause) : (s.uopFault c x).sb = s.spoilEntries.sb := rfl
@[simp] theorem State.uopFault_outstanding (c : UopCtx) (x : Cause) :
    (s.uopFault c x).outstanding = s.outstanding := rfl
@[simp] theorem State.uopFault_inFlight (c : UopCtx) (x : Cause) : (s.uopFault c x).inFlight = s.inFlight := rfl
@[simp] theorem State.uopFault_pins (c : UopCtx) (x : Cause) : (s.uopFault c x).pins = s.pins := rfl
@[simp] theorem State.uopFault_inputs (c : UopCtx) (x : Cause) : (s.uopFault c x).inputs = s.inputs := rfl
@[simp] theorem State.uopFault_budget (c : UopCtx) (x : Cause) : (s.uopFault c x).budget = s.budget := rfl
@[simp] theorem State.uopFault_br (c : UopCtx) (x : Cause) : (s.uopFault c x).br = s.br := rfl
@[simp] theorem State.uopFault_crc (c : UopCtx) (x : Cause) : (s.uopFault c x).crc = s.crc := rfl
@[simp] theorem State.uopFault_fa (c : UopCtx) (x : Cause) : (s.uopFault c x).fa = s.fa := rfl
@[simp] theorem State.uopFault_fb (c : UopCtx) (x : Cause) : (s.uopFault c x).fb = s.fb := rfl
@[simp] theorem State.uopFault_trace (c : UopCtx) (x : Cause) : (s.uopFault c x).trace = s.trace := rfl
@[simp] theorem State.uopFault_params (c : UopCtx) (x : Cause) : (s.uopFault c x).params = s.params := rfl
@[simp] theorem State.uopFault_freeCount (c : UopCtx) (x : Cause) :
    (s.uopFault c x).freeCount = s.freeCount + 1 := rfl

/-! ## `cmdFault` -/

@[simp] theorem State.cmdFault_created (x : Cause) (w : Word) : (s.cmdFault x w).created = s.created := rfl
@[simp] theorem State.cmdFault_sel (x : Cause) (w : Word) : (s.cmdFault x w).sel = s.sel := rfl
@[simp] theorem State.cmdFault_crcPresent (x : Cause) (w : Word) : (s.cmdFault x w).crcPresent = s.crcPresent := rfl
@[simp] theorem State.cmdFault_mode (x : Cause) (w : Word) : (s.cmdFault x w).mode = s.mode := rfl
@[simp] theorem State.cmdFault_n (x : Cause) (w : Word) : (s.cmdFault x w).n = s.n := rfl
@[simp] theorem State.cmdFault_b (x : Cause) (w : Word) : (s.cmdFault x w).b = s.b := rfl
@[simp] theorem State.cmdFault_guard (x : Cause) (w : Word) : (s.cmdFault x w).guard = s.guard := rfl
@[simp] theorem State.cmdFault_rready (x : Cause) (w : Word) : (s.cmdFault x w).rready = s.rready := rfl
@[simp] theorem State.cmdFault_wready (x : Cause) (w : Word) : (s.cmdFault x w).wready = s.wready := rfl
@[simp] theorem State.cmdFault_fsm (x : Cause) (w : Word) : (s.cmdFault x w).fsm = .error := rfl
@[simp] theorem State.cmdFault_seqI (x : Cause) (w : Word) : (s.cmdFault x w).seqI = s.seqI := rfl
@[simp] theorem State.cmdFault_seqPh (x : Cause) (w : Word) : (s.cmdFault x w).seqPh = s.seqPh := rfl
@[simp] theorem State.cmdFault_seqG (x : Cause) (w : Word) : (s.cmdFault x w).seqG = s.seqG := rfl
@[simp] theorem State.cmdFault_cause (x : Cause) (w : Word) : (s.cmdFault x w).cause = x := rfl
@[simp] theorem State.cmdFault_errWord (x : Cause) (w : Word) : (s.cmdFault x w).errWord = w := rfl
@[simp] theorem State.cmdFault_errSrc (x : Cause) (w : Word) : (s.cmdFault x w).errSrc = .hostCommand := rfl
@[simp] theorem State.cmdFault_errGran (x : Cause) (w : Word) : (s.cmdFault x w).errGran = s.seqG := rfl
@[simp] theorem State.cmdFault_bitcnt (x : Cause) (w : Word) : (s.cmdFault x w).bitcnt = s.bitcnt := rfl
@[simp] theorem State.cmdFault_sb (x : Cause) (w : Word) : (s.cmdFault x w).sb = s.sb := rfl
@[simp] theorem State.cmdFault_outstanding (x : Cause) (w : Word) :
    (s.cmdFault x w).outstanding = s.outstanding := rfl
@[simp] theorem State.cmdFault_inFlight (x : Cause) (w : Word) : (s.cmdFault x w).inFlight = s.inFlight := rfl
@[simp] theorem State.cmdFault_pins (x : Cause) (w : Word) : (s.cmdFault x w).pins = s.pins := rfl
@[simp] theorem State.cmdFault_inputs (x : Cause) (w : Word) : (s.cmdFault x w).inputs = s.inputs := rfl
@[simp] theorem State.cmdFault_budget (x : Cause) (w : Word) : (s.cmdFault x w).budget = s.budget := rfl
@[simp] theorem State.cmdFault_br (x : Cause) (w : Word) : (s.cmdFault x w).br = s.br := rfl
@[simp] theorem State.cmdFault_crc (x : Cause) (w : Word) : (s.cmdFault x w).crc = s.crc := rfl
@[simp] theorem State.cmdFault_fa (x : Cause) (w : Word) : (s.cmdFault x w).fa = s.fa := rfl
@[simp] theorem State.cmdFault_fb (x : Cause) (w : Word) : (s.cmdFault x w).fb = s.fb := rfl
@[simp] theorem State.cmdFault_trace (x : Cause) (w : Word) : (s.cmdFault x w).trace = s.trace := rfl
@[simp] theorem State.cmdFault_params (x : Cause) (w : Word) : (s.cmdFault x w).params = s.params := rfl
@[simp] theorem State.cmdFault_freeCount (x : Cause) (w : Word) : (s.cmdFault x w).freeCount = s.freeCount := rfl

/-! ## `record` -/

@[simp] theorem State.record_created (t : Txn) (r : Completion) : (s.record t r).created = s.created := rfl
@[simp] theorem State.record_sel (t : Txn) (r : Completion) : (s.record t r).sel = s.sel := rfl
@[simp] theorem State.record_crcPresent (t : Txn) (r : Completion) : (s.record t r).crcPresent = s.crcPresent := rfl
@[simp] theorem State.record_mode (t : Txn) (r : Completion) : (s.record t r).mode = s.mode := rfl
@[simp] theorem State.record_n (t : Txn) (r : Completion) : (s.record t r).n = s.n := rfl
@[simp] theorem State.record_b (t : Txn) (r : Completion) : (s.record t r).b = s.b := rfl
@[simp] theorem State.record_guard (t : Txn) (r : Completion) : (s.record t r).guard = s.guard := rfl
@[simp] theorem State.record_rready (t : Txn) (r : Completion) : (s.record t r).rready = s.rready := rfl
@[simp] theorem State.record_wready (t : Txn) (r : Completion) : (s.record t r).wready = s.wready := rfl
@[simp] theorem State.record_fsm (t : Txn) (r : Completion) : (s.record t r).fsm = s.fsm := rfl
@[simp] theorem State.record_seqI (t : Txn) (r : Completion) : (s.record t r).seqI = s.seqI := rfl
@[simp] theorem State.record_seqPh (t : Txn) (r : Completion) : (s.record t r).seqPh = s.seqPh := rfl
@[simp] theorem State.record_seqG (t : Txn) (r : Completion) : (s.record t r).seqG = s.seqG := rfl
@[simp] theorem State.record_cause (t : Txn) (r : Completion) : (s.record t r).cause = s.cause := rfl
@[simp] theorem State.record_errWord (t : Txn) (r : Completion) : (s.record t r).errWord = s.errWord := rfl
@[simp] theorem State.record_errSrc (t : Txn) (r : Completion) : (s.record t r).errSrc = s.errSrc := rfl
@[simp] theorem State.record_errGran (t : Txn) (r : Completion) : (s.record t r).errGran = s.errGran := rfl
@[simp] theorem State.record_bitcnt (t : Txn) (r : Completion) : (s.record t r).bitcnt = s.bitcnt := rfl
@[simp] theorem State.record_sb (t : Txn) (r : Completion) : (s.record t r).sb = s.sb := rfl
@[simp] theorem State.record_outstanding (t : Txn) (r : Completion) :
    (s.record t r).outstanding = s.outstanding := rfl
@[simp] theorem State.record_inFlight (t : Txn) (r : Completion) : (s.record t r).inFlight = s.inFlight := rfl
@[simp] theorem State.record_pins (t : Txn) (r : Completion) : (s.record t r).pins = s.pins := rfl
@[simp] theorem State.record_inputs (t : Txn) (r : Completion) : (s.record t r).inputs = s.inputs := rfl
@[simp] theorem State.record_budget (t : Txn) (r : Completion) : (s.record t r).budget = s.budget := rfl
@[simp] theorem State.record_br (t : Txn) (r : Completion) : (s.record t r).br = s.br := rfl
@[simp] theorem State.record_crc (t : Txn) (r : Completion) : (s.record t r).crc = s.crc := rfl
@[simp] theorem State.record_fa (t : Txn) (r : Completion) : (s.record t r).fa = s.fa := rfl
@[simp] theorem State.record_fb (t : Txn) (r : Completion) : (s.record t r).fb = s.fb := rfl
@[simp] theorem State.record_trace (t : Txn) (r : Completion) :
    (s.record t r).trace = s.trace ++ [{ txn := t, result := r }] := rfl
@[simp] theorem State.record_params (t : Txn) (r : Completion) : (s.record t r).params = s.params := rfl
@[simp] theorem State.record_freeCount (t : Txn) (r : Completion) : (s.record t r).freeCount = s.freeCount := rfl

/-! ## `countBits` -/

@[simp] theorem State.countBits_created (n : Nat) : (s.countBits n).created = s.created := rfl
@[simp] theorem State.countBits_sel (n : Nat) : (s.countBits n).sel = s.sel := rfl
@[simp] theorem State.countBits_crcPresent (n : Nat) : (s.countBits n).crcPresent = s.crcPresent := rfl
@[simp] theorem State.countBits_mode (n : Nat) : (s.countBits n).mode = s.mode := rfl
@[simp] theorem State.countBits_n (n : Nat) : (s.countBits n).n = s.n := rfl
@[simp] theorem State.countBits_b (n : Nat) : (s.countBits n).b = s.b := rfl
@[simp] theorem State.countBits_guard (n : Nat) : (s.countBits n).guard = s.guard := rfl
@[simp] theorem State.countBits_rready (n : Nat) : (s.countBits n).rready = s.rready := rfl
@[simp] theorem State.countBits_wready (n : Nat) : (s.countBits n).wready = s.wready := rfl
@[simp] theorem State.countBits_fsm (n : Nat) : (s.countBits n).fsm = s.fsm := rfl
@[simp] theorem State.countBits_seqI (n : Nat) : (s.countBits n).seqI = s.seqI := rfl
@[simp] theorem State.countBits_seqPh (n : Nat) : (s.countBits n).seqPh = s.seqPh := rfl
@[simp] theorem State.countBits_seqG (n : Nat) : (s.countBits n).seqG = s.seqG := rfl
@[simp] theorem State.countBits_cause (n : Nat) : (s.countBits n).cause = s.cause := rfl
@[simp] theorem State.countBits_errWord (n : Nat) : (s.countBits n).errWord = s.errWord := rfl
@[simp] theorem State.countBits_errSrc (n : Nat) : (s.countBits n).errSrc = s.errSrc := rfl
@[simp] theorem State.countBits_errGran (n : Nat) : (s.countBits n).errGran = s.errGran := rfl
@[simp] theorem State.countBits_bitcnt (n : Nat) : (s.countBits n).bitcnt = s.bitcnt + BitVec.ofNat 32 n := rfl
@[simp] theorem State.countBits_sb (n : Nat) : (s.countBits n).sb = s.sb := rfl
@[simp] theorem State.countBits_outstanding (n : Nat) : (s.countBits n).outstanding = s.outstanding := rfl
@[simp] theorem State.countBits_inFlight (n : Nat) : (s.countBits n).inFlight = s.inFlight := rfl
@[simp] theorem State.countBits_pins (n : Nat) : (s.countBits n).pins = s.pins := rfl
@[simp] theorem State.countBits_inputs (n : Nat) : (s.countBits n).inputs = s.inputs := rfl
@[simp] theorem State.countBits_budget (n : Nat) : (s.countBits n).budget = s.budget := rfl
@[simp] theorem State.countBits_br (n : Nat) : (s.countBits n).br = s.br := rfl
@[simp] theorem State.countBits_crc (n : Nat) : (s.countBits n).crc = s.crc := rfl
@[simp] theorem State.countBits_fa (n : Nat) : (s.countBits n).fa = s.fa := rfl
@[simp] theorem State.countBits_fb (n : Nat) : (s.countBits n).fb = s.fb := rfl
@[simp] theorem State.countBits_trace (n : Nat) : (s.countBits n).trace = s.trace := rfl
@[simp] theorem State.countBits_params (n : Nat) : (s.countBits n).params = s.params := rfl
@[simp] theorem State.countBits_freeCount (n : Nat) : (s.countBits n).freeCount = s.freeCount := rfl

/-! ## `withPorts` -/

@[simp] theorem State.withPorts_created (t : State) : (s.withPorts t).created = s.created := rfl
@[simp] theorem State.withPorts_sel (t : State) : (s.withPorts t).sel = s.sel := rfl
@[simp] theorem State.withPorts_crcPresent (t : State) : (s.withPorts t).crcPresent = s.crcPresent := rfl
@[simp] theorem State.withPorts_mode (t : State) : (s.withPorts t).mode = s.mode := rfl
@[simp] theorem State.withPorts_n (t : State) : (s.withPorts t).n = s.n := rfl
@[simp] theorem State.withPorts_b (t : State) : (s.withPorts t).b = s.b := rfl
@[simp] theorem State.withPorts_guard (t : State) : (s.withPorts t).guard = s.guard := rfl
@[simp] theorem State.withPorts_rready (t : State) : (s.withPorts t).rready = s.rready := rfl
@[simp] theorem State.withPorts_wready (t : State) : (s.withPorts t).wready = s.wready := rfl
@[simp] theorem State.withPorts_fsm (t : State) : (s.withPorts t).fsm = s.fsm := rfl
@[simp] theorem State.withPorts_seqI (t : State) : (s.withPorts t).seqI = s.seqI := rfl
@[simp] theorem State.withPorts_seqPh (t : State) : (s.withPorts t).seqPh = s.seqPh := rfl
@[simp] theorem State.withPorts_seqG (t : State) : (s.withPorts t).seqG = s.seqG := rfl
@[simp] theorem State.withPorts_cause (t : State) : (s.withPorts t).cause = s.cause := rfl
@[simp] theorem State.withPorts_errWord (t : State) : (s.withPorts t).errWord = s.errWord := rfl
@[simp] theorem State.withPorts_errSrc (t : State) : (s.withPorts t).errSrc = s.errSrc := rfl
@[simp] theorem State.withPorts_errGran (t : State) : (s.withPorts t).errGran = s.errGran := rfl
@[simp] theorem State.withPorts_bitcnt (t : State) : (s.withPorts t).bitcnt = s.bitcnt := rfl
@[simp] theorem State.withPorts_sb (t : State) : (s.withPorts t).sb = s.sb := rfl
@[simp] theorem State.withPorts_outstanding (t : State) : (s.withPorts t).outstanding = s.outstanding := rfl
@[simp] theorem State.withPorts_inFlight (t : State) : (s.withPorts t).inFlight = s.inFlight := rfl
@[simp] theorem State.withPorts_pins (t : State) : (s.withPorts t).pins = s.pins := rfl
@[simp] theorem State.withPorts_inputs (t : State) : (s.withPorts t).inputs = s.inputs := rfl
@[simp] theorem State.withPorts_budget (t : State) : (s.withPorts t).budget = s.budget := rfl
@[simp] theorem State.withPorts_br (t : State) : (s.withPorts t).br = t.br := rfl
@[simp] theorem State.withPorts_crc (t : State) : (s.withPorts t).crc = t.crc := rfl
@[simp] theorem State.withPorts_fa (t : State) : (s.withPorts t).fa = t.fa := rfl
@[simp] theorem State.withPorts_fb (t : State) : (s.withPorts t).fb = t.fb := rfl
@[simp] theorem State.withPorts_trace (t : State) : (s.withPorts t).trace = t.trace := rfl
@[simp] theorem State.withPorts_params (t : State) : (s.withPorts t).params = s.params := rfl
@[simp] theorem State.withPorts_freeCount (t : State) : (s.withPorts t).freeCount = s.freeCount := rfl

/-! ## `tookBits` -/

@[simp] theorem State.tookBits_created (n : Nat) : (s.tookBits n).created = s.created := rfl
@[simp] theorem State.tookBits_sel (n : Nat) : (s.tookBits n).sel = s.sel := rfl
@[simp] theorem State.tookBits_crcPresent (n : Nat) : (s.tookBits n).crcPresent = s.crcPresent := rfl
@[simp] theorem State.tookBits_mode (n : Nat) : (s.tookBits n).mode = s.mode := rfl
@[simp] theorem State.tookBits_n (n : Nat) : (s.tookBits n).n = s.n := rfl
@[simp] theorem State.tookBits_b (n : Nat) : (s.tookBits n).b = s.b := rfl
@[simp] theorem State.tookBits_guard (n : Nat) : (s.tookBits n).guard = s.guard := rfl
@[simp] theorem State.tookBits_rready (n : Nat) : (s.tookBits n).rready = s.rready := rfl
@[simp] theorem State.tookBits_wready (n : Nat) : (s.tookBits n).wready = s.wready := rfl
@[simp] theorem State.tookBits_fsm (n : Nat) : (s.tookBits n).fsm = s.fsm := rfl
@[simp] theorem State.tookBits_seqI (n : Nat) : (s.tookBits n).seqI = s.seqI := rfl
@[simp] theorem State.tookBits_seqPh (n : Nat) : (s.tookBits n).seqPh = s.seqPh := rfl
@[simp] theorem State.tookBits_seqG (n : Nat) : (s.tookBits n).seqG = s.seqG := rfl
@[simp] theorem State.tookBits_cause (n : Nat) : (s.tookBits n).cause = s.cause := rfl
@[simp] theorem State.tookBits_errWord (n : Nat) : (s.tookBits n).errWord = s.errWord := rfl
@[simp] theorem State.tookBits_errSrc (n : Nat) : (s.tookBits n).errSrc = s.errSrc := rfl
@[simp] theorem State.tookBits_errGran (n : Nat) : (s.tookBits n).errGran = s.errGran := rfl
@[simp] theorem State.tookBits_bitcnt (n : Nat) : (s.tookBits n).bitcnt = s.bitcnt + BitVec.ofNat 32 n := rfl
@[simp] theorem State.tookBits_sb (n : Nat) : (s.tookBits n).sb = s.sb := rfl
@[simp] theorem State.tookBits_outstanding (n : Nat) : (s.tookBits n).outstanding = s.outstanding := rfl
@[simp] theorem State.tookBits_inFlight (n : Nat) : (s.tookBits n).inFlight = s.inFlight := rfl
@[simp] theorem State.tookBits_pins (n : Nat) : (s.tookBits n).pins = s.pins := rfl
@[simp] theorem State.tookBits_inputs (n : Nat) : (s.tookBits n).inputs = s.inputs := rfl
@[simp] theorem State.tookBits_budget (n : Nat) : (s.tookBits n).budget = s.budget := rfl
@[simp] theorem State.tookBits_br (n : Nat) :
    (s.tookBits n).br = { s.br.answered with cursor := s.br.cursor + n } := rfl
@[simp] theorem State.tookBits_crc (n : Nat) : (s.tookBits n).crc = s.crc := rfl
@[simp] theorem State.tookBits_fa (n : Nat) : (s.tookBits n).fa = s.fa := rfl
@[simp] theorem State.tookBits_fb (n : Nat) : (s.tookBits n).fb = s.fb := rfl
@[simp] theorem State.tookBits_trace (n : Nat) :
    (s.tookBits n).trace = s.trace ++ [{ txn := .getBits n, result := .value (natOfBits (s.br.peek n)) }] := rfl
@[simp] theorem State.tookBits_params (n : Nat) : (s.tookBits n).params = s.params := rfl
@[simp] theorem State.tookBits_freeCount (n : Nat) : (s.tookBits n).freeCount = s.freeCount := rfl

/-! ## `foundExhausted` -/

@[simp] theorem State.foundExhausted_created (n : Nat) : (s.foundExhausted n).created = s.created := rfl
@[simp] theorem State.foundExhausted_sel (n : Nat) : (s.foundExhausted n).sel = s.sel := rfl
@[simp] theorem State.foundExhausted_crcPresent (n : Nat) : (s.foundExhausted n).crcPresent = s.crcPresent := rfl
@[simp] theorem State.foundExhausted_mode (n : Nat) : (s.foundExhausted n).mode = s.mode := rfl
@[simp] theorem State.foundExhausted_n (n : Nat) : (s.foundExhausted n).n = s.n := rfl
@[simp] theorem State.foundExhausted_b (n : Nat) : (s.foundExhausted n).b = s.b := rfl
@[simp] theorem State.foundExhausted_guard (n : Nat) : (s.foundExhausted n).guard = s.guard := rfl
@[simp] theorem State.foundExhausted_rready (n : Nat) : (s.foundExhausted n).rready = s.rready := rfl
@[simp] theorem State.foundExhausted_wready (n : Nat) : (s.foundExhausted n).wready = s.wready := rfl
@[simp] theorem State.foundExhausted_fsm (n : Nat) : (s.foundExhausted n).fsm = s.fsm := rfl
@[simp] theorem State.foundExhausted_seqI (n : Nat) : (s.foundExhausted n).seqI = s.seqI := rfl
@[simp] theorem State.foundExhausted_seqPh (n : Nat) : (s.foundExhausted n).seqPh = s.seqPh := rfl
@[simp] theorem State.foundExhausted_seqG (n : Nat) : (s.foundExhausted n).seqG = s.seqG := rfl
@[simp] theorem State.foundExhausted_cause (n : Nat) : (s.foundExhausted n).cause = s.cause := rfl
@[simp] theorem State.foundExhausted_errWord (n : Nat) : (s.foundExhausted n).errWord = s.errWord := rfl
@[simp] theorem State.foundExhausted_errSrc (n : Nat) : (s.foundExhausted n).errSrc = s.errSrc := rfl
@[simp] theorem State.foundExhausted_errGran (n : Nat) : (s.foundExhausted n).errGran = s.errGran := rfl
@[simp] theorem State.foundExhausted_bitcnt (n : Nat) : (s.foundExhausted n).bitcnt = s.bitcnt := rfl
@[simp] theorem State.foundExhausted_sb (n : Nat) : (s.foundExhausted n).sb = s.sb := rfl
@[simp] theorem State.foundExhausted_outstanding (n : Nat) : (s.foundExhausted n).outstanding = s.outstanding := rfl
@[simp] theorem State.foundExhausted_inFlight (n : Nat) : (s.foundExhausted n).inFlight = s.inFlight := rfl
@[simp] theorem State.foundExhausted_pins (n : Nat) : (s.foundExhausted n).pins = s.pins := rfl
@[simp] theorem State.foundExhausted_inputs (n : Nat) : (s.foundExhausted n).inputs = s.inputs := rfl
@[simp] theorem State.foundExhausted_budget (n : Nat) : (s.foundExhausted n).budget = s.budget := rfl
@[simp] theorem State.foundExhausted_br (n : Nat) :
    (s.foundExhausted n).br = { s.br.answered with cursor := Config.freeCursor s.freeCount } := rfl
@[simp] theorem State.foundExhausted_crc (n : Nat) : (s.foundExhausted n).crc = s.crc := rfl
@[simp] theorem State.foundExhausted_fa (n : Nat) : (s.foundExhausted n).fa = s.fa := rfl
@[simp] theorem State.foundExhausted_fb (n : Nat) : (s.foundExhausted n).fb = s.fb := rfl
@[simp] theorem State.foundExhausted_trace (n : Nat) :
    (s.foundExhausted n).trace = s.trace ++ [{ txn := .getBits n, result := .exhausted }] := rfl
@[simp] theorem State.foundExhausted_params (n : Nat) : (s.foundExhausted n).params = s.params := rfl
@[simp] theorem State.foundExhausted_freeCount (n : Nat) : (s.foundExhausted n).freeCount = s.freeCount := rfl

/-! ## `setWready` -/

@[simp] theorem State.setWready_created : (s.setWready).created = s.created := rfl
@[simp] theorem State.setWready_sel : (s.setWready).sel = s.sel := rfl
@[simp] theorem State.setWready_crcPresent : (s.setWready).crcPresent = s.crcPresent := rfl
@[simp] theorem State.setWready_mode : (s.setWready).mode = s.mode := rfl
@[simp] theorem State.setWready_n : (s.setWready).n = s.n := rfl
@[simp] theorem State.setWready_b : (s.setWready).b = s.b := rfl
@[simp] theorem State.setWready_guard : (s.setWready).guard = s.guard := rfl
@[simp] theorem State.setWready_rready : (s.setWready).rready = s.rready := rfl
@[simp] theorem State.setWready_wready : (s.setWready).wready = true := rfl
@[simp] theorem State.setWready_fsm : (s.setWready).fsm = s.fsm := rfl
@[simp] theorem State.setWready_seqI : (s.setWready).seqI = s.seqI := rfl
@[simp] theorem State.setWready_seqPh : (s.setWready).seqPh = s.seqPh := rfl
@[simp] theorem State.setWready_seqG : (s.setWready).seqG = s.seqG := rfl
@[simp] theorem State.setWready_cause : (s.setWready).cause = s.cause := rfl
@[simp] theorem State.setWready_errWord : (s.setWready).errWord = s.errWord := rfl
@[simp] theorem State.setWready_errSrc : (s.setWready).errSrc = s.errSrc := rfl
@[simp] theorem State.setWready_errGran : (s.setWready).errGran = s.errGran := rfl
@[simp] theorem State.setWready_bitcnt : (s.setWready).bitcnt = s.bitcnt := rfl
@[simp] theorem State.setWready_sb : (s.setWready).sb = s.sb := rfl
@[simp] theorem State.setWready_outstanding : (s.setWready).outstanding = s.outstanding := rfl
@[simp] theorem State.setWready_inFlight : (s.setWready).inFlight = s.inFlight := rfl
@[simp] theorem State.setWready_pins : (s.setWready).pins = s.pins := rfl
@[simp] theorem State.setWready_inputs : (s.setWready).inputs = s.inputs := rfl
@[simp] theorem State.setWready_budget : (s.setWready).budget = s.budget := rfl
@[simp] theorem State.setWready_br : (s.setWready).br = s.br := rfl
@[simp] theorem State.setWready_crc : (s.setWready).crc = s.crc := rfl
@[simp] theorem State.setWready_fa : (s.setWready).fa = s.fa := rfl
@[simp] theorem State.setWready_fb : (s.setWready).fb = s.fb := rfl
@[simp] theorem State.setWready_trace : (s.setWready).trace = s.trace := rfl
@[simp] theorem State.setWready_params : (s.setWready).params = s.params := rfl
@[simp] theorem State.setWready_freeCount : (s.setWready).freeCount = s.freeCount := rfl

/-! ## `nextSubband` -/

@[simp] theorem State.nextSubband_created : (s.nextSubband).created = s.created := rfl
@[simp] theorem State.nextSubband_sel : (s.nextSubband).sel = s.sel := rfl
@[simp] theorem State.nextSubband_crcPresent : (s.nextSubband).crcPresent = s.crcPresent := rfl
@[simp] theorem State.nextSubband_mode : (s.nextSubband).mode = s.mode := rfl
@[simp] theorem State.nextSubband_n : (s.nextSubband).n = s.n := rfl
@[simp] theorem State.nextSubband_b : (s.nextSubband).b = s.b := rfl
@[simp] theorem State.nextSubband_guard : (s.nextSubband).guard = s.guard := rfl
@[simp] theorem State.nextSubband_rready : (s.nextSubband).rready = s.rready := rfl
@[simp] theorem State.nextSubband_wready : (s.nextSubband).wready = s.wready := rfl
@[simp] theorem State.nextSubband_fsm : (s.nextSubband).fsm = s.fsm := rfl
@[simp] theorem State.nextSubband_seqI : (s.nextSubband).seqI = s.seqI + 1#5 := rfl
@[simp] theorem State.nextSubband_seqPh : (s.nextSubband).seqPh = s.seqPh := rfl
@[simp] theorem State.nextSubband_seqG : (s.nextSubband).seqG = s.seqG := rfl
@[simp] theorem State.nextSubband_cause : (s.nextSubband).cause = s.cause := rfl
@[simp] theorem State.nextSubband_errWord : (s.nextSubband).errWord = s.errWord := rfl
@[simp] theorem State.nextSubband_errSrc : (s.nextSubband).errSrc = s.errSrc := rfl
@[simp] theorem State.nextSubband_errGran : (s.nextSubband).errGran = s.errGran := rfl
@[simp] theorem State.nextSubband_bitcnt : (s.nextSubband).bitcnt = s.bitcnt := rfl
@[simp] theorem State.nextSubband_sb : (s.nextSubband).sb = s.sb := rfl
@[simp] theorem State.nextSubband_outstanding : (s.nextSubband).outstanding = s.outstanding := rfl
@[simp] theorem State.nextSubband_inFlight : (s.nextSubband).inFlight = s.inFlight := rfl
@[simp] theorem State.nextSubband_pins : (s.nextSubband).pins = s.pins := rfl
@[simp] theorem State.nextSubband_inputs : (s.nextSubband).inputs = s.inputs := rfl
@[simp] theorem State.nextSubband_budget : (s.nextSubband).budget = s.budget := rfl
@[simp] theorem State.nextSubband_br : (s.nextSubband).br = s.br := rfl
@[simp] theorem State.nextSubband_crc : (s.nextSubband).crc = s.crc := rfl
@[simp] theorem State.nextSubband_fa : (s.nextSubband).fa = s.fa := rfl
@[simp] theorem State.nextSubband_fb : (s.nextSubband).fb = s.fb := rfl
@[simp] theorem State.nextSubband_trace : (s.nextSubband).trace = s.trace := rfl
@[simp] theorem State.nextSubband_params : (s.nextSubband).params = s.params := rfl
@[simp] theorem State.nextSubband_freeCount : (s.nextSubband).freeCount = s.freeCount := rfl

/-! ## `takeCmd` -/

@[simp] theorem State.takeCmd_created : (s.takeCmd).created = s.created := rfl
@[simp] theorem State.takeCmd_sel : (s.takeCmd).sel = s.sel := rfl
@[simp] theorem State.takeCmd_crcPresent : (s.takeCmd).crcPresent = s.crcPresent := rfl
@[simp] theorem State.takeCmd_mode : (s.takeCmd).mode = s.mode := rfl
@[simp] theorem State.takeCmd_n : (s.takeCmd).n = s.n := rfl
@[simp] theorem State.takeCmd_b : (s.takeCmd).b = s.b := rfl
@[simp] theorem State.takeCmd_guard : (s.takeCmd).guard = s.guard := rfl
@[simp] theorem State.takeCmd_rready : (s.takeCmd).rready = s.rready := rfl
@[simp] theorem State.takeCmd_wready : (s.takeCmd).wready = s.wready := rfl
@[simp] theorem State.takeCmd_fsm : (s.takeCmd).fsm = s.fsm := rfl
@[simp] theorem State.takeCmd_seqI : (s.takeCmd).seqI = s.seqI := rfl
@[simp] theorem State.takeCmd_seqPh : (s.takeCmd).seqPh = s.seqPh := rfl
@[simp] theorem State.takeCmd_seqG : (s.takeCmd).seqG = s.seqG := rfl
@[simp] theorem State.takeCmd_cause : (s.takeCmd).cause = s.cause := rfl
@[simp] theorem State.takeCmd_errWord : (s.takeCmd).errWord = s.errWord := rfl
@[simp] theorem State.takeCmd_errSrc : (s.takeCmd).errSrc = s.errSrc := rfl
@[simp] theorem State.takeCmd_errGran : (s.takeCmd).errGran = s.errGran := rfl
@[simp] theorem State.takeCmd_bitcnt : (s.takeCmd).bitcnt = s.bitcnt := rfl
@[simp] theorem State.takeCmd_sb : (s.takeCmd).sb = s.sb := rfl
@[simp] theorem State.takeCmd_outstanding : (s.takeCmd).outstanding = s.outstanding := rfl
@[simp] theorem State.takeCmd_inFlight : (s.takeCmd).inFlight = s.inFlight := rfl
@[simp] theorem State.takeCmd_pins : (s.takeCmd).pins = { s.pins with cmd := none } := rfl
@[simp] theorem State.takeCmd_inputs : (s.takeCmd).inputs = s.inputs := rfl
@[simp] theorem State.takeCmd_budget : (s.takeCmd).budget = s.budget := rfl
@[simp] theorem State.takeCmd_br : (s.takeCmd).br = s.br := rfl
@[simp] theorem State.takeCmd_crc : (s.takeCmd).crc = s.crc := rfl
@[simp] theorem State.takeCmd_fa : (s.takeCmd).fa = s.fa := rfl
@[simp] theorem State.takeCmd_fb : (s.takeCmd).fb = s.fb := rfl
@[simp] theorem State.takeCmd_trace : (s.takeCmd).trace = s.trace := rfl
@[simp] theorem State.takeCmd_params : (s.takeCmd).params = s.params := rfl
@[simp] theorem State.takeCmd_freeCount : (s.takeCmd).freeCount = s.freeCount := rfl

/-! ## `takeUop` -/

@[simp] theorem State.takeUop_created : (s.takeUop).created = s.created := rfl
@[simp] theorem State.takeUop_sel : (s.takeUop).sel = s.sel := rfl
@[simp] theorem State.takeUop_crcPresent : (s.takeUop).crcPresent = s.crcPresent := rfl
@[simp] theorem State.takeUop_mode : (s.takeUop).mode = s.mode := rfl
@[simp] theorem State.takeUop_n : (s.takeUop).n = s.n := rfl
@[simp] theorem State.takeUop_b : (s.takeUop).b = s.b := rfl
@[simp] theorem State.takeUop_guard : (s.takeUop).guard = s.guard := rfl
@[simp] theorem State.takeUop_rready : (s.takeUop).rready = s.rready := rfl
@[simp] theorem State.takeUop_wready : (s.takeUop).wready = s.wready := rfl
@[simp] theorem State.takeUop_fsm : (s.takeUop).fsm = s.fsm := rfl
@[simp] theorem State.takeUop_seqI : (s.takeUop).seqI = s.seqI := rfl
@[simp] theorem State.takeUop_seqPh : (s.takeUop).seqPh = s.seqPh := rfl
@[simp] theorem State.takeUop_seqG : (s.takeUop).seqG = s.seqG := rfl
@[simp] theorem State.takeUop_cause : (s.takeUop).cause = s.cause := rfl
@[simp] theorem State.takeUop_errWord : (s.takeUop).errWord = s.errWord := rfl
@[simp] theorem State.takeUop_errSrc : (s.takeUop).errSrc = s.errSrc := rfl
@[simp] theorem State.takeUop_errGran : (s.takeUop).errGran = s.errGran := rfl
@[simp] theorem State.takeUop_bitcnt : (s.takeUop).bitcnt = s.bitcnt := rfl
@[simp] theorem State.takeUop_sb : (s.takeUop).sb = s.sb := rfl
@[simp] theorem State.takeUop_outstanding : (s.takeUop).outstanding = s.outstanding := rfl
@[simp] theorem State.takeUop_inFlight : (s.takeUop).inFlight = s.inFlight := rfl
@[simp] theorem State.takeUop_pins : (s.takeUop).pins = { s.pins with uop := none } := rfl
@[simp] theorem State.takeUop_inputs : (s.takeUop).inputs = s.inputs := rfl
@[simp] theorem State.takeUop_budget : (s.takeUop).budget = s.budget := rfl
@[simp] theorem State.takeUop_br : (s.takeUop).br = s.br := rfl
@[simp] theorem State.takeUop_crc : (s.takeUop).crc = s.crc := rfl
@[simp] theorem State.takeUop_fa : (s.takeUop).fa = s.fa := rfl
@[simp] theorem State.takeUop_fb : (s.takeUop).fb = s.fb := rfl
@[simp] theorem State.takeUop_trace : (s.takeUop).trace = s.trace := rfl
@[simp] theorem State.takeUop_params : (s.takeUop).params = s.params := rfl
@[simp] theorem State.takeUop_freeCount : (s.takeUop).freeCount = s.freeCount := rfl

/-! ## `startFrame` -/

@[simp] theorem State.startFrame_created : (s.startFrame).created = s.created := rfl
@[simp] theorem State.startFrame_sel : (s.startFrame).sel = s.sel := rfl
@[simp] theorem State.startFrame_crcPresent : (s.startFrame).crcPresent = s.crcPresent := rfl
@[simp] theorem State.startFrame_mode : (s.startFrame).mode = s.pins.hdr.mode := rfl
@[simp] theorem State.startFrame_n : (s.startFrame).n = s.pins.hdr.n := rfl
@[simp] theorem State.startFrame_b : (s.startFrame).b = s.pins.hdr.b := rfl
@[simp] theorem State.startFrame_guard : (s.startFrame).guard = false := rfl
@[simp] theorem State.startFrame_rready : (s.startFrame).rready = false := rfl
@[simp] theorem State.startFrame_wready : (s.startFrame).wready = false := rfl
@[simp] theorem State.startFrame_fsm : (s.startFrame).fsm = .init := rfl
@[simp] theorem State.startFrame_seqI : (s.startFrame).seqI = 0#5 := rfl
@[simp] theorem State.startFrame_seqPh : (s.startFrame).seqPh = .read := rfl
@[simp] theorem State.startFrame_seqG : (s.startFrame).seqG = 0#4 := rfl
@[simp] theorem State.startFrame_cause : (s.startFrame).cause = .none := rfl
@[simp] theorem State.startFrame_errWord : (s.startFrame).errWord = 0#16 := rfl
@[simp] theorem State.startFrame_errSrc : (s.startFrame).errSrc = .uop := rfl
@[simp] theorem State.startFrame_errGran : (s.startFrame).errGran = 0#4 := rfl
@[simp] theorem State.startFrame_bitcnt : (s.startFrame).bitcnt = 0#32 := rfl
@[simp] theorem State.startFrame_sb : (s.startFrame).sb = s.clearValid.sb := rfl
@[simp] theorem State.startFrame_outstanding : (s.startFrame).outstanding = s.outstanding := rfl
@[simp] theorem State.startFrame_inFlight : (s.startFrame).inFlight = s.inFlight := rfl
@[simp] theorem State.startFrame_pins : (s.startFrame).pins = s.pins := rfl
@[simp] theorem State.startFrame_inputs : (s.startFrame).inputs = s.inputs := rfl
@[simp] theorem State.startFrame_budget : (s.startFrame).budget = s.budget := rfl
@[simp] theorem State.startFrame_br : (s.startFrame).br = s.br := rfl
@[simp] theorem State.startFrame_crc : (s.startFrame).crc = s.crc := rfl
@[simp] theorem State.startFrame_fa : (s.startFrame).fa = s.fa := rfl
@[simp] theorem State.startFrame_fb : (s.startFrame).fb = s.fb := rfl
@[simp] theorem State.startFrame_trace : (s.startFrame).trace = s.trace := rfl
@[simp] theorem State.startFrame_params : (s.startFrame).params = s.params := rfl
@[simp] theorem State.startFrame_freeCount : (s.startFrame).freeCount = s.freeCount := rfl

/-! ## `advanceFilter` -/

@[simp] theorem State.advanceFilter_created (f : Filter) : (s.advanceFilter f).created = s.created := by cases f <;> rfl
@[simp] theorem State.advanceFilter_sel (f : Filter) : (s.advanceFilter f).sel = s.sel := by cases f <;> rfl
@[simp] theorem State.advanceFilter_crcPresent (f : Filter) : (s.advanceFilter f).crcPresent = s.crcPresent := by cases f <;> rfl
@[simp] theorem State.advanceFilter_mode (f : Filter) : (s.advanceFilter f).mode = s.mode := by cases f <;> rfl
@[simp] theorem State.advanceFilter_n (f : Filter) : (s.advanceFilter f).n = s.n := by cases f <;> rfl
@[simp] theorem State.advanceFilter_b (f : Filter) : (s.advanceFilter f).b = s.b := by cases f <;> rfl
@[simp] theorem State.advanceFilter_guard (f : Filter) : (s.advanceFilter f).guard = s.guard := by cases f <;> rfl
@[simp] theorem State.advanceFilter_rready (f : Filter) : (s.advanceFilter f).rready = s.rready := by cases f <;> rfl
@[simp] theorem State.advanceFilter_wready (f : Filter) : (s.advanceFilter f).wready = s.wready := by cases f <;> rfl
@[simp] theorem State.advanceFilter_fsm (f : Filter) : (s.advanceFilter f).fsm = s.fsm := by cases f <;> rfl
@[simp] theorem State.advanceFilter_seqI (f : Filter) : (s.advanceFilter f).seqI = s.seqI := by cases f <;> rfl
@[simp] theorem State.advanceFilter_seqPh (f : Filter) : (s.advanceFilter f).seqPh = s.seqPh := by cases f <;> rfl
@[simp] theorem State.advanceFilter_seqG (f : Filter) : (s.advanceFilter f).seqG = s.seqG := by cases f <;> rfl
@[simp] theorem State.advanceFilter_cause (f : Filter) : (s.advanceFilter f).cause = s.cause := by cases f <;> rfl
@[simp] theorem State.advanceFilter_errWord (f : Filter) : (s.advanceFilter f).errWord = s.errWord := by cases f <;> rfl
@[simp] theorem State.advanceFilter_errSrc (f : Filter) : (s.advanceFilter f).errSrc = s.errSrc := by cases f <;> rfl
@[simp] theorem State.advanceFilter_errGran (f : Filter) : (s.advanceFilter f).errGran = s.errGran := by cases f <;> rfl
@[simp] theorem State.advanceFilter_bitcnt (f : Filter) : (s.advanceFilter f).bitcnt = s.bitcnt := by cases f <;> rfl
@[simp] theorem State.advanceFilter_sb (f : Filter) : (s.advanceFilter f).sb = s.sb := by cases f <;> rfl
@[simp] theorem State.advanceFilter_outstanding (f : Filter) : (s.advanceFilter f).outstanding = s.outstanding := by cases f <;> rfl
@[simp] theorem State.advanceFilter_inFlight (f : Filter) : (s.advanceFilter f).inFlight = s.inFlight := by cases f <;> rfl
@[simp] theorem State.advanceFilter_pins (f : Filter) : (s.advanceFilter f).pins = s.pins := by cases f <;> rfl
@[simp] theorem State.advanceFilter_inputs (f : Filter) : (s.advanceFilter f).inputs = s.inputs := by cases f <;> rfl
@[simp] theorem State.advanceFilter_budget (f : Filter) : (s.advanceFilter f).budget = s.budget := by cases f <;> rfl
@[simp] theorem State.advanceFilter_br (f : Filter) : (s.advanceFilter f).br = s.br := by cases f <;> rfl
@[simp] theorem State.advanceFilter_crc (f : Filter) : (s.advanceFilter f).crc = s.crc := by cases f <;> rfl
@[simp] theorem State.advanceFilter_trace (f : Filter) : (s.advanceFilter f).trace = s.trace := by cases f <;> rfl
@[simp] theorem State.advanceFilter_params (f : Filter) : (s.advanceFilter f).params = s.params := by cases f <;> rfl
@[simp] theorem State.advanceFilter_freeCount (f : Filter) : (s.advanceFilter f).freeCount = s.freeCount := by cases f <;> rfl
@[simp] theorem State.advanceFilter_ofA : s.advanceFilter .a = { s with fa := s.fa.advance } := rfl
@[simp] theorem State.advanceFilter_ofB : s.advanceFilter .b = { s with fb := s.fb.advance } := rfl

end Sys2Proof.Machine
end

