-- ==== Sys2Proof/Laws/Entries.lean ====
section
/-! SUPPORT. Reading the subband register file after each operation that writes it (spec/10_state.md R26). -/

namespace Sys2Proof.Machine

variable (s : State)

@[simp] theorem State.entry_setEntry_same (i : SbIdx) (e : SbEntry) : (s.setEntry i e).entry i = e := by
  simp [State.entry]

theorem State.entry_setEntry_other {i j : SbIdx} (h : j ≠ i) (e : SbEntry) :
    (s.setEntry i e).entry j = s.entry j := by
  have hn : i.toNat ≠ j.toNat := fun hh => h (BitVec.eq_of_toNat_eq hh.symm)
  simp [State.entry, hn]

/-- One lemma for both cases. -/
theorem State.entry_setEntry (i j : SbIdx) (e : SbEntry) :
    (s.setEntry i e).entry j = if j = i then e else s.entry j := by
  by_cases h : j = i
  · subst h; simp
  · simp [h, s.entry_setEntry_other h]

theorem State.entry_congr {t : State} (h : t.sb = s.sb) (i : SbIdx) : t.entry i = s.entry i := by
  simp [State.entry, h]

@[simp] theorem State.setEntry_setEntry (i : SbIdx) (e e' : SbEntry) :
    (s.setEntry i e).setEntry i e' = s.setEntry i e' := by
  simp [State.setEntry]

@[simp] theorem State.setEntry_entry (i : SbIdx) : s.setEntry i (s.entry i) = s := by
  simp [State.setEntry, State.entry]

@[simp] theorem SbEntry.ch_withCh_same (e : SbEntry) (k : Ch) (c : Chan) : (e.withCh k c).ch k = c := by
  cases k <;> rfl

theorem SbEntry.ch_withCh_other (e : SbEntry) {k l : Ch} (h : l ≠ k) (c : Chan) :
    (e.withCh k c).ch l = e.ch l := by
  cases k <;> cases l <;> first | rfl | exact absurd rfl h

@[simp] theorem SbEntry.withCh_valid (e : SbEntry) (k : Ch) (c : Chan) : (e.withCh k c).valid = e.valid := by
  cases k <;> rfl

@[simp] theorem SbEntry.withCh_var (e : SbEntry) (k : Ch) (c : Chan) : (e.withCh k c).var = e.var := by
  cases k <;> rfl

@[simp] theorem SbEntry.withCh_idx (e : SbEntry) (k : Ch) (c : Chan) : (e.withCh k c).idx = e.idx := by
  cases k <;> rfl

@[simp] theorem SbEntry.withCh_gcnt (e : SbEntry) (k : Ch) (c : Chan) : (e.withCh k c).gcnt = e.gcnt := by
  cases k <;> rfl

@[simp] theorem SbEntry.withCh_c0_ch1 (e : SbEntry) (c : Chan) : (e.withCh .c0 c).ch1 = e.ch1 := rfl
@[simp] theorem SbEntry.withCh_c1_ch0 (e : SbEntry) (c : Chan) : (e.withCh .c1 c).ch0 = e.ch0 := rfl
@[simp] theorem SbEntry.withCh_c0_ch0 (e : SbEntry) (c : Chan) : (e.withCh .c0 c).ch0 = c := rfl
@[simp] theorem SbEntry.withCh_c1_ch1 (e : SbEntry) (c : Chan) : (e.withCh .c1 c).ch1 = c := rfl

@[simp] theorem State.entry_setChan_same (i : SbIdx) (k : Ch) (c : Chan) :
    (s.setChan i k c).entry i = (s.entry i).withCh k c := by
  simp [State.setChan]

theorem State.entry_setChan_other {i j : SbIdx} (h : j ≠ i) (k : Ch) (c : Chan) :
    (s.setChan i k c).entry j = s.entry j := s.entry_setEntry_other h _

@[simp] theorem State.chan_setChan_same (i : SbIdx) (k : Ch) (c : Chan) : (s.setChan i k c).chan i k = c := by
  simp [State.chan]

theorem State.chan_setChan_otherCh (i : SbIdx) {k l : Ch} (h : l ≠ k) (c : Chan) :
    (s.setChan i k c).chan i l = s.chan i l := by
  simp [State.chan, SbEntry.ch_withCh_other _ h]

@[simp] theorem State.entry_clearValid (i : SbIdx) :
    s.clearValid.entry i = { s.entry i with valid := false } := by
  simp [State.entry]

@[simp] theorem State.entry_spoilEntries (i : SbIdx) :
    s.spoilEntries.entry i =
      if (s.entry i).valid then SbEntry.free s.freeCount (s.entry i).idx else s.entry i := by
  simp only [State.entry, State.spoilEntries, Vector.getElem_map]
  rfl

@[simp] theorem SbEntry.free_idx (stamp : Nat) (i : SbIdx) : (SbEntry.free stamp i).idx = i := rfl

@[simp] theorem State.entry_reset (i : SbIdx) : State.reset.entry i = SbEntry.atReset i := by
  simp [State.entry, State.reset, sbAtReset]

@[simp] theorem State.entry_granuleStep_same (i : SbIdx) :
    (s.granuleStep i).entry i = { s.entry i with gcnt := nextGcnt (s.entry i).gcnt } := by
  simp [State.entry]

theorem State.entry_granuleStep_other {i j : SbIdx} (h : j ≠ i) : (s.granuleStep i).entry j = s.entry j :=
  s.entry_setEntry_other h _

end Sys2Proof.Machine
end

