-- ==== Sys2Proof/Laws/Ops.lean ====
section
/-! SUPPORT. One lemma per shared operation that says everything it can do: the bits a GetBits reads, the
ends of each transaction, the execute checks, fault entry, and what every one of them leaves alone
(spec/20_memory.md R56 to R60, spec/60_exceptions.md R204). -/

namespace Sys2Proof.Machine

/-! ## Flow -/

section Flow

variable {α β : Type} (f : α → UopCtx → State → Flow β)

@[simp] theorem Flow.bind_done (a : α) (c : UopCtx) (s : State) : (Flow.done a c s).bind f = f a c s := rfl
@[simp] theorem Flow.bind_stop (s : State) : (Flow.stop s).bind f = .stop s := rfl
@[simp] theorem Flow.bind_hang (t : Txn) (s : State) : (Flow.hang t s).bind f = .hang t s := rfl
@[simp] theorem Flow.bind_pause (s : State) : (Flow.pause s).bind f = .pause s := rfl

@[simp] theorem Flow.settle_done (a : Unit) (c : UopCtx) (t s : State) : (Flow.done a c t).settle s = t := rfl
@[simp] theorem Flow.settle_stop (t s : State) : (Flow.stop t).settle s = t := rfl
@[simp] theorem Flow.settle_hang (x : Txn) (t s : State) :
    (Flow.hang x t).settle s = { s.withPorts t with outstanding := some x } := rfl
@[simp] theorem Flow.settle_pause (t s : State) : (Flow.pause t).settle s = s.withPorts t := rfl

/-- P holds where a flow goes on, Q where it ended in a fault, R where it has not ended. -/
def Flow.Sat (P : α → State → Prop) (Q R : State → Prop) : Flow α → Prop
  | .done a _ s => P a s
  | .stop s => Q s
  | .hang _ s => R s
  | .pause s => R s

variable {f} {Q R : State → Prop}

theorem Flow.Sat.bind {x : Flow α} {P : α → State → Prop} {P' : β → State → Prop} (hx : x.Sat P Q R)
    (hf : ∀ a c s, P a s → (f a c s).Sat P' Q R) : (x.bind f).Sat P' Q R := by
  cases x with
  | done a c s => exact hf a c s hx
  | stop s => exact hx
  | hang t s => exact hx
  | pause s => exact hx

theorem Flow.Sat.mono {x : Flow α} {P P' : α → State → Prop} {Q' R' : State → Prop} (h : x.Sat P Q R)
    (hP : ∀ a s, P a s → P' a s) (hQ : ∀ s, Q s → Q' s) (hR : ∀ s, R s → R' s) : x.Sat P' Q' R' := by
  cases x with
  | done a c s => exact hP a s h
  | stop s => exact hQ s h
  | hang t s => exact hR s h
  | pause s => exact hR s h

/-- Everything a settled uop can be: ended, or back at s but for the ports and `outstanding` (R68, R216). -/
theorem Flow.settle_cases (x : Flow Unit) (s : State) :
    (∃ a c t, x = .done a c t ∧ x.settle s = t) ∨ (∃ t, x = .stop t ∧ x.settle s = t) ∨
    (∃ t y, x = .hang y t ∧ x.settle s = { s.withPorts t with outstanding := some y }) ∨
    (∃ t, x = .pause t ∧ x.settle s = s.withPorts t) := by
  cases x with
  | done a c t => exact .inl ⟨a, c, t, rfl, rfl⟩
  | stop t => exact .inr (.inl ⟨t, rfl, rfl⟩)
  | hang y t => exact .inr (.inr (.inl ⟨t, y, rfl, rfl⟩))
  | pause t => exact .inr (.inr (.inr ⟨t, rfl, rfl⟩))

end Flow

/-! ## What every uop leaves alone -/

/-- The registers and inputs that no uop writes, fault or not (60_exceptions.md R204): the configuration,
the frame context, SEQ but for FSM, the host's signals, the grain, what is latched and the parameters. -/
structure SameContext (s t : State) : Prop where
  created : t.created = s.created
  sel : t.sel = s.sel
  crcPresent : t.crcPresent = s.crcPresent
  mode : t.mode = s.mode
  n : t.n = s.n
  b : t.b = s.b
  guard : t.guard = s.guard
  seqI : t.seqI = s.seqI
  seqPh : t.seqPh = s.seqPh
  seqG : t.seqG = s.seqG
  pins : t.pins = s.pins
  inputs : t.inputs = s.inputs
  budget : t.budget = s.budget
  inFlight : t.inFlight = s.inFlight
  params : t.params = s.params

theorem SameContext.refl (s : State) : SameContext s s := by constructor <;> rfl

theorem SameContext.trans {s t u : State} (h : SameContext s t) (h' : SameContext t u) : SameContext s u := by
  constructor
  · exact h'.created.trans h.created
  · exact h'.sel.trans h.sel
  · exact h'.crcPresent.trans h.crcPresent
  · exact h'.mode.trans h.mode
  · exact h'.n.trans h.n
  · exact h'.b.trans h.b
  · exact h'.guard.trans h.guard
  · exact h'.seqI.trans h.seqI
  · exact h'.seqPh.trans h.seqPh
  · exact h'.seqG.trans h.seqG
  · exact h'.pins.trans h.pins
  · exact h'.inputs.trans h.inputs
  · exact h'.budget.trans h.budget
  · exact h'.inFlight.trans h.inFlight
  · exact h'.params.trans h.params

theorem SameContext.setEntry (s : State) (i : SbIdx) (e : SbEntry) : SameContext s (s.setEntry i e) := by
  constructor <;> rfl

theorem SameContext.setChan (s : State) (i : SbIdx) (k : Ch) (c : Chan) : SameContext s (s.setChan i k c) := by
  constructor <;> rfl

theorem SameContext.granuleStep (s : State) (i : SbIdx) : SameContext s (s.granuleStep i) := by
  constructor <;> rfl

theorem SameContext.setWready (s : State) : SameContext s s.setWready := by constructor <;> rfl

theorem SameContext.uopFault (s : State) (c : UopCtx) (x : Cause) : SameContext s (s.uopFault c x) := by
  constructor <;> rfl

theorem SameContext.record (s : State) (t : Txn) (r : Completion) : SameContext s (s.record t r) := by
  constructor <;> rfl

theorem SameContext.countBits (s : State) (n : Nat) : SameContext s (s.countBits n) := by constructor <;> rfl

theorem SameContext.tookBits (s : State) (n : Nat) : SameContext s (s.tookBits n) := by
  constructor <;> simp

theorem SameContext.foundExhausted (s : State) (n : Nat) : SameContext s (s.foundExhausted n) := by
  constructor <;> simp

theorem SameContext.withPorts (s t : State) : SameContext s (s.withPorts t) := by constructor <;> rfl

/-- A flow that leaves the context alone. -/
def Flow.KeepsContext {α : Type} (s : State) (x : Flow α) : Prop :=
  x.Sat (fun _ => SameContext s) (SameContext s) (SameContext s)

theorem Flow.KeepsContext.bind {α β : Type} {s : State} {x : Flow α} {f : α → UopCtx → State → Flow β}
    (hx : x.KeepsContext s) (hf : ∀ a c t, (f a c t).KeepsContext t) : (x.bind f).KeepsContext s :=
  Flow.Sat.bind hx fun a c t h =>
    (hf a c t).mono (fun _ _ h' => h.trans h') (fun _ h' => h.trans h') (fun _ h' => h.trans h')

/-- Context kept from an earlier state. -/
theorem Flow.KeepsContext.before {α : Type} {s t : State} {x : Flow α} (h : SameContext s t)
    (hx : x.KeepsContext t) : x.KeepsContext s :=
  Flow.Sat.mono hx (fun _ _ h' => h.trans h') (fun _ h' => h.trans h') (fun _ h' => h.trans h')

/-- A settled flow leaves the context alone. -/
theorem Flow.KeepsContext.settle {s : State} {x : Flow Unit} (h : x.KeepsContext s) :
    SameContext s (x.settle s) := by
  cases x with
  | done a c t => exact h
  | stop t => exact h
  | hang y t => constructor <;> rfl
  | pause t => exact SameContext.withPorts s t

/-! ## Bits -/

theorem natOfBits_foldl (bits : List Bool) (acc : Nat) :
    bits.foldl (fun acc b => 2 * acc + b.toNat) acc = acc * 2 ^ bits.length + natOfBits bits := by
  induction bits generalizing acc with
  | nil => simp [natOfBits]
  | cons b bs ih =>
    simp only [natOfBits, List.foldl_cons, List.length_cons]
    rw [ih, ih (2 * 0 + b.toNat)]
    rw [pow_succ]; ring

@[simp] theorem natOfBits_nil : natOfBits [] = 0 := rfl

/-- Most significant bit first (20_memory.md R56). -/
theorem natOfBits_cons (b : Bool) (bs : List Bool) :
    natOfBits (b :: bs) = b.toNat * 2 ^ bs.length + natOfBits bs := by
  simp only [natOfBits, List.foldl_cons]
  rw [natOfBits_foldl]; simp [natOfBits]

/-- An n-bit field is below 2^n. -/
theorem natOfBits_lt (bits : List Bool) : natOfBits bits < 2 ^ bits.length := by
  induction bits with
  | nil => simp
  | cons b bs ih =>
    rw [natOfBits_cons, List.length_cons, pow_succ]
    have : b.toNat ≤ 1 := Bool.toNat_le b
    nlinarith

theorem BitReader.peek_length {r : BitReader} {n : Nat} (h : r.has n = true) : (r.peek n).length = n := by
  simp [BitReader.has, BitReader.peek] at *; omega

theorem BitReader.peek_lt {r : BitReader} {n : Nat} (h : r.has n = true) : natOfBits (r.peek n) < 2 ^ n := by
  simpa [BitReader.peek_length h] using natOfBits_lt (r.peek n)

/-! ## Transactions -/

/-- A whole uop issues every transaction it comes to. -/
@[simp] theorem UopCtx.turn_fresh (w : Word) : (UopCtx.fresh w).turn = .issue (UopCtx.fresh w) := rfl

/-- Everything a uop that comes to a transaction can do (70_reset_and_hazards.md R257, log 9). -/
theorem UopCtx.turn_cases (c : UopCtx) :
    (∃ e rest, c.replay = e :: rest ∧ c.turn = .latched e { c with replay := rest }) ∨
    (c.replay = [] ∧ c.budget = some 0 ∧ c.turn = .wait) ∨
    (c.replay = [] ∧ ∃ c', c.turn = .issue c' ∧ c'.word = c.word ∧ c'.replay = []) := by
  obtain ⟨w, replay, budget⟩ := c
  cases replay with
  | cons e rest => exact .inl ⟨e, rest, rfl, rfl⟩
  | nil =>
    rcases budget with _ | _ | k
    · exact .inr (.inr ⟨rfl, _, rfl, rfl, rfl⟩)
    · exact .inr (.inl ⟨rfl, rfl, rfl⟩)
    · exact .inr (.inr ⟨rfl, _, rfl, rfl, rfl⟩)

/-- Everything a GetBits that is issued can do (20_memory.md R56, R57; 60_exceptions.md R216). -/
theorem issueGetBits_cases (c : UopCtx) (n : Nat) (s : State) :
    (s.br.replies.next = .answers ∧ s.br.has n = true ∧
      issueGetBits c n s = .done (natOfBits (s.br.peek n)) c (s.tookBits n)) ∨
    (s.br.replies.next = .answers ∧ s.br.has n = false ∧
      issueGetBits c n s = .stop ((s.foundExhausted n).uopFault c .bitstreamExhausted)) ∨
    (s.br.replies.next = .never ∧
      issueGetBits c n s = .hang (.getBits n) { s with br := s.br.answered }) := by
  unfold issueGetBits
  cases hr : s.br.replies.next <;> cases hh : s.br.has n <;> simp

/-- Everything a GetBits can do. -/
theorem getBits_cases (c : UopCtx) (n : Nat) (s : State) :
    (∃ v c', v < 2 ^ n ∧ getBits c n s = .done v c' (s.countBits n)) ∨
    getBits c n s = .pause s ∨
    (∃ c', c'.word = c.word ∧ getBits c n s = issueGetBits c' n s) := by
  unfold getBits
  rcases c.turn_cases with ⟨e, rest, _, h⟩ | ⟨_, _, h⟩ | ⟨_, c', h, hw, _⟩ <;> rw [h]
  · exact .inl ⟨_, _, Nat.mod_lt _ (Nat.two_pow_pos n), rfl⟩
  · exact .inr (.inl rfl)
  · exact .inr (.inr ⟨c', hw, rfl⟩)

@[simp] theorem getBits_fresh (w : Word) (n : Nat) (s : State) :
    getBits (UopCtx.fresh w) n s = issueGetBits (UopCtx.fresh w) n s := rfl

/-- Everything the completion of a CrcAdd, Inject or Synth can do (20_memory.md R57). -/
theorem complete_cases (c : UopCtx) (t : Txn) (r : Reply) (s : State) :
    (r = .ok ∧ complete c t r s = .done () c (s.record t .ok)) ∨
    (r = .err ∧ complete c t r s = .stop ((s.record t .err).uopFault c .collaboratorError)) ∨
    (r = .never ∧ complete c t r s = .hang t s) := by
  cases r <;> simp [complete]

/-- Everything a CrcAdd, Inject or Synth can do. -/
theorem transact_cases (c : UopCtx) (t : Txn) (r : Reply) (s issued : State) :
    (∃ c', transact c t r s issued = .done () c' s) ∨ transact c t r s issued = .pause s ∨
    (∃ c', c'.word = c.word ∧ transact c t r s issued = complete c' t r issued) := by
  unfold transact
  rcases c.turn_cases with ⟨e, rest, _, h⟩ | ⟨_, _, h⟩ | ⟨_, c', h, hw, _⟩ <;> rw [h]
  · exact .inl ⟨_, rfl⟩
  · exact .inr (.inl rfl)
  · exact .inr (.inr ⟨c', hw, rfl⟩)

@[simp] theorem transact_fresh (w : Word) (t : Txn) (r : Reply) (s issued : State) :
    transact (UopCtx.fresh w) t r s issued = complete (UopCtx.fresh w) t r issued := rfl

/-- Everything the execute checks can do (30_encoding.md R90). -/
theorem checkEntry_cases (c : UopCtx) (i : SbIdx) (v : Variant) (s : State) :
    ((s.entry i).valid = true ∧ (s.entry i).var = v ∧ checkEntry c i v s = .done () c s) ∨
    (¬ ((s.entry i).valid = true ∧ (s.entry i).var = v) ∧
      checkEntry c i v s = .stop (s.uopFault c .illegalUop)) := by
  unfold checkEntry
  by_cases h : (s.entry i).valid = false
  · simp [h]
  · by_cases h' : (s.entry i).var = v <;> simp [h, h']

theorem checkEntry_ok {c : UopCtx} {i : SbIdx} {v : Variant} {s : State} (h : (s.entry i).valid = true)
    (h' : (s.entry i).var = v) : checkEntry c i v s = .done () c s := by
  simp [checkEntry, h, h']

theorem checkEntry_bad {c : UopCtx} {i : SbIdx} {v : Variant} {s : State}
    (h : ¬ ((s.entry i).valid = true ∧ (s.entry i).var = v)) :
    checkEntry c i v s = .stop (s.uopFault c .illegalUop) := by
  rcases checkEntry_cases c i v s with ⟨h1, h2, _⟩ | ⟨_, h2⟩
  · exact absurd ⟨h1, h2⟩ h
  · exact h2

theorem issueGetBits_keeps (c : UopCtx) (n : Nat) (s : State) : (issueGetBits c n s).KeepsContext s := by
  rcases issueGetBits_cases c n s with ⟨_, _, h⟩ | ⟨_, _, h⟩ | ⟨_, h⟩ <;> rw [h]
  · exact SameContext.tookBits s n
  · exact (SameContext.foundExhausted s n).trans (SameContext.uopFault _ c _)
  · exact SameContext.withPorts s { s with br := s.br.answered }

theorem getBits_keeps (c : UopCtx) (n : Nat) (s : State) : (getBits c n s).KeepsContext s := by
  rcases getBits_cases c n s with ⟨_, _, _, h⟩ | h | ⟨c', _, h⟩ <;> rw [h]
  · exact SameContext.countBits s n
  · exact SameContext.refl s
  · exact issueGetBits_keeps c' n s

theorem complete_keeps (c : UopCtx) (t : Txn) (r : Reply) (s : State) : (complete c t r s).KeepsContext s := by
  rcases complete_cases c t r s with ⟨_, h⟩ | ⟨_, h⟩ | ⟨_, h⟩ <;> rw [h]
  · exact SameContext.record s t .ok
  · exact (SameContext.record s t .err).trans (SameContext.uopFault _ c _)
  · exact SameContext.refl s

theorem transact_keeps (c : UopCtx) (t : Txn) (r : Reply) {s issued : State} (hi : SameContext s issued) :
    (transact c t r s issued).KeepsContext s := by
  rcases transact_cases c t r s issued with ⟨_, h⟩ | h | ⟨c', _, h⟩
  · rw [h]; exact SameContext.refl s
  · rw [h]; exact SameContext.refl s
  · rw [h]; exact Flow.KeepsContext.before hi (complete_keeps c' t r issued)

theorem crcAdd_keeps (c : UopCtx) (v : BitVec 4) (s : State) : (crcAdd c v s).KeepsContext s :=
  transact_keeps c _ _ (by constructor <;> rfl)

theorem SameContext.advanceFilter (s : State) (f : Filter) : SameContext s (s.advanceFilter f) := by
  cases f <;> (constructor <;> rfl)

theorem inject_keeps (c : UopCtx) (f : Filter) (i : SbIdx) (x : F32) (s : State) :
    (inject c f i x s).KeepsContext s :=
  transact_keeps c _ _ (SameContext.advanceFilter s f)

theorem synth_keeps (c : UopCtx) (f : Filter) (s : State) : (synth c f s).KeepsContext s :=
  transact_keeps c _ _ (SameContext.advanceFilter s f)

theorem injectAll_keeps (c : UopCtx) (i : SbIdx) (vs : List (Filter × F32)) (s : State) :
    (injectAll c i vs s).KeepsContext s := by
  induction vs generalizing c s with
  | nil => exact SameContext.refl s
  | cons v vs ih => exact (inject_keeps c v.1 i v.2 s).bind fun _ c t => ih c t

theorem checkEntry_keeps (c : UopCtx) (i : SbIdx) (v : Variant) (s : State) :
    (checkEntry c i v s).KeepsContext s := by
  rcases checkEntry_cases c i v s with ⟨_, _, h⟩ | ⟨_, h⟩ <;> rw [h] <;> (constructor <;> rfl)

/-! ## The parts of the subband uops -/

theorem getCode4_keeps (c : UopCtx) (s : State) : (getCode4 c s).KeepsContext s :=
  (getBits_keeps c 4 s).bind fun _ _ t => SameContext.refl t

theorem foldCode_keeps (c : UopCtx) (a : BitVec 4) (s : State) : (foldCode c a s).KeepsContext s := by
  unfold foldCode; split
  · exact crcAdd_keeps c a s
  · exact SameContext.refl s

theorem allocOne_keeps (c : UopCtx) (i : SbIdx) (s : State) : (allocOne c i s).KeepsContext s :=
  (getCode4_keeps c s).bind fun a c t =>
  (foldCode_keeps c a t).bind fun _ _ u => SameContext.setChan u i _ _

theorem allocTwo_keeps (c : UopCtx) (i : SbIdx) (s : State) : (allocTwo c i s).KeepsContext s :=
  (getCode4_keeps c s).bind fun a0 c t =>
  (getCode4_keeps c t).bind fun a1 c u =>
  (foldCode_keeps c a0 u).bind fun _ c w =>
  (foldCode_keeps c a1 w).bind fun _ _ x =>
    (SameContext.setChan x i _ _).trans (SameContext.setChan _ i _ _)

theorem readScf_keeps (c : UopCtx) (i : SbIdx) (k : Ch) (s : State) : (readScf c i k s).KeepsContext s :=
  (getBits_keeps c 6 s).bind fun _ _ t => SameContext.setChan t i k _

theorem scfChannel_keeps (c : UopCtx) (i : SbIdx) (k : Ch) (s : State) : (scfChannel c i k s).KeepsContext s := by
  unfold scfChannel; split
  · exact readScf_keeps c i k s
  · exact SameContext.refl s

theorem scfShared_keeps (c : UopCtx) (i : SbIdx) (s : State) : (scfShared c i s).KeepsContext s := by
  unfold scfShared; split
  · exact (readScf_keeps c i .c0 s).bind fun _ c t => readScf_keeps c i .c1 t
  · exact SameContext.refl s

theorem sampleChannel_keeps (c : UopCtx) (i : SbIdx) (k : Ch) (s : State) :
    (sampleChannel c i k s).KeepsContext s := by
  unfold sampleChannel; split
  · exact (getBits_keeps c _ s).bind fun _ _ t => SameContext.setChan t i k _
  · exact SameContext.refl s

theorem sampleOne_keeps (c : UopCtx) (i : SbIdx) (s : State) : (sampleOne c i s).KeepsContext s :=
  (sampleChannel_keeps c i .c0 s).bind fun _ _ t => SameContext.granuleStep t i

theorem sampleTwo_keeps (c : UopCtx) (i : SbIdx) (s : State) : (sampleTwo c i s).KeepsContext s :=
  (sampleChannel_keeps c i .c0 s).bind fun _ c t =>
    Flow.KeepsContext.before (SameContext.granuleStep t i) (sampleChannel_keeps c i .c1 _)

theorem emit_keeps (c : UopCtx) (i : SbIdx) (vs : List (Filter × F32)) (s : State) :
    (emit c i vs s).KeepsContext s :=
  (injectAll_keeps c i vs s).bind fun _ _ t => SameContext.setWready t

/-- No uop touches the context, run whole or in part. -/
theorem uopBody_keeps (u : Instr) (c : UopCtx) (s : State) : (uopBody u c s).KeepsContext s := by
  have checked (i : SbIdx) (v : Variant) {f : UopCtx → State → Flow Unit}
      (hf : ∀ c t, (f c t).KeepsContext t) :
      ((checkEntry c i v s).bind fun _ c t => f c t).KeepsContext s :=
    (checkEntry_keeps c i v s).bind fun _ c t => hf c t
  cases u with
  | createSbMono i => exact SameContext.setEntry s i _
  | createSbSt i => exact SameContext.setEntry s i _
  | createSbIs i => exact SameContext.setEntry s i _
  | allocMono i => exact checked i .mono fun c t => allocOne_keeps c i t
  | allocSt i => exact checked i .st fun c t => allocTwo_keeps c i t
  | allocIs i => exact checked i .is fun c t => allocOne_keeps c i t
  | scfsiMono i => exact checkEntry_keeps c i .mono s
  | scfsiSt i => exact checkEntry_keeps c i .st s
  | scfsiIs i => exact checkEntry_keeps c i .is s
  | scfMono i => exact checked i .mono fun c t => scfChannel_keeps c i .c0 t
  | scfSt i =>
    exact checked i .st fun c t => (scfChannel_keeps c i .c0 t).bind fun _ c u => scfChannel_keeps c i .c1 u
  | scfIs i => exact checked i .is fun c t => scfShared_keeps c i t
  | sampleMono i => exact checked i .mono fun c t => sampleOne_keeps c i t
  | sampleSt i => exact checked i .st fun c t => sampleTwo_keeps c i t
  | sampleIs i => exact checked i .is fun c t => sampleOne_keeps c i t
  | putMono i => exact checked i .mono fun c t => emit_keeps c i _ t
  | putSt i => exact checked i .st fun c t => emit_keeps c i _ t
  | putIs i => exact checked i .is fun c t => emit_keeps c i _ t
  | synthA => exact synth_keeps c .a s
  | synthB => exact synth_keeps c .b s
  | cfg crc sel => exact SameContext.refl s
  | decode => exact SameContext.refl s

/-- A uop's meaning is its body, run whole: what `exec` runs and what a step runs in parts is one body. -/
theorem exec_uop (u : Instr) (s : State) (h : u.port = .uopBus) : exec u s = runUop u (uopBody u) s := by
  cases u <;> first | rfl | cases h

/-! ## Steps -/

@[simp] theorem mapNext_next (f : State → State) (s : State) : mapNext f (.next s) = .next (f s) := rfl
@[simp] theorem mapNext_fault (f : State → State) (r : Fault) : mapNext f (.fault r) = .fault r := rfl
@[simp] theorem mapNext_refused (f : State → State) (r : Refusal) : mapNext f (.refused r) = .refused r := rfl

theorem runUop_eq (u : Instr) (body : UopCtx → State → Flow Unit) (s : State) :
    runUop u body s = .next ((body (UopCtx.fresh (encode u)) s).settle s) := rfl

@[simp] theorem State.sampleInputs_nil {s : State} (h : s.inputs = []) : s.sampleInputs = s := by
  simp [State.sampleInputs, h]

/-- Sampling the host's signals touches no register of L1SD. -/
theorem State.sampleInputs_eq (s : State) :
    s.sampleInputs = { s with
      pins := s.sampleInputs.pins, inputs := s.sampleInputs.inputs
      budget := s.sampleInputs.budget, br := s.sampleInputs.br } := by
  unfold State.sampleInputs; cases s.inputs <;> rfl

@[simp] theorem Script.always_next {ρ : Type} (r : ρ) : (Script.always r).next = r := rfl
@[simp] theorem Script.always_advance {ρ : Type} (r : ρ) : (Script.always r).advance = Script.always r := rfl

end Sys2Proof.Machine
end

