-- ==== Sys2Proof/Laws/Parts.lean ====
section
/-! SUPPORT. The shape of a uop: what it is put together from, and how many transactions it has at most. By
that shape: a uop run in parts is the uop run whole, and under every grain a step of it ends it or issues as
many transactions as the grain allows (spec/70_reset_and_hazards.md R257, R258, log 9). -/

namespace Sys2Proof.Machine

/-! ## Where only the ports, or only the grain, differ -/

@[simp] theorem State.withPorts_self (s : State) : s.withPorts s = s := rfl
@[simp] theorem State.entry_withPorts (s p : State) (i : SbIdx) : (s.withPorts p).entry i = s.entry i := rfl
@[simp] theorem State.chan_withPorts (s p : State) (i : SbIdx) (k : Ch) : (s.withPorts p).chan i k = s.chan i k := rfl

/-- s with another grain and another uop begun, or none. -/
def State.withGrain (s : State) (b : Option Nat) (f : Option InFlight) : State :=
  { s with
    budget := b
    inFlight := f }

/-- r reads registers only. -/
structure OnRegisters {γ : Type} (r : State → γ) : Prop where
  ports : ∀ s p, r (s.withPorts p) = r s
  grain : ∀ s b f, r (s.withGrain b f) = r s

/-- g reads and writes registers only. -/
structure RegisterUpdate (g : State → State) : Prop where
  ports : ∀ s p, g (s.withPorts p) = (g s).withPorts p
  grain : ∀ s b f, g (s.withGrain b f) = (g s).withGrain b f
  trace : ∀ s, (g s).trace = s.trace

/-- A port whose next completion is `reply` and whose script `issue` moves on: neither depends on the grain, and
`issue` writes no register and no trace. -/
structure PortUse (reply : State → Reply) (issue : State → State) : Prop where
  reply : ∀ s b f, reply (s.withGrain b f) = reply s
  grain : ∀ s b f, issue (s.withGrain b f) = (issue s).withGrain b f
  ports : ∀ s p, (issue s).withPorts p = s.withPorts p
  trace : ∀ s, (issue s).trace = s.trace

/-! ## The shape of a uop -/

/-- F is put together from checks, register updates and at most n transactions, one after the other. -/
inductive Parts : {α : Type} → Nat → (UopCtx → State → Flow α) → Prop
  | read (n : Nat) : Parts 1 fun c s => getBits c n s
  | call (t : Txn) {reply : State → Reply} {issue : State → State} (h : PortUse reply issue) :
      Parts 1 fun c s => transact c t (reply s) s (issue s)
  | check (i : SbIdx) (v : Variant) : Parts 0 fun c s => checkEntry c i v s
  | register {α : Type} (a : α) {g : State → State} (h : RegisterUpdate g) : Parts 0 fun c s => .done a c (g s)
  | bind {α β : Type} {m n : Nat} {F : UopCtx → State → Flow α} {G : α → UopCtx → State → Flow β}
      (hF : Parts m F) (hG : ∀ a, Parts n (G a)) : Parts (m + n) fun c s => (F c s).bind G
  | reading {α γ : Type} {n : Nat} {F : γ → UopCtx → State → Flow α} {r : State → γ} (hr : OnRegisters r)
      (hF : ∀ s, Parts n (F (r s))) : Parts n fun c s => F (r s) c s
  | mono {α : Type} {m n : Nat} {F : UopCtx → State → Flow α} (hF : Parts m F) (h : m ≤ n) : Parts n F

/-- A choice by what the registers hold. -/
theorem Parts.ite {α : Type} {n : Nat} {F G : UopCtx → State → Flow α} {P : State → Prop}
    [∀ s, Decidable (P s)] (hP : OnRegisters fun s => decide (P s)) (hF : Parts n F) (hG : Parts n G) :
    Parts n fun c s => if P s then F c s else G c s := by
  have h := Parts.reading (F := fun b c s => if b = true then F c s else G c s) (n := n) hP fun s => by
    cases decide (P s)
    · simpa using hG
    · simpa using hF
  simpa using h

/-- A part that issues nothing and leaves the state. -/
theorem Parts.skip {α : Type} (a : α) : Parts 0 fun c s => Flow.done a c s :=
  .register a (g := id) (by constructor <;> intros <;> rfl)

theorem crcAdd_parts (v : BitVec 4) : Parts 1 fun c s => crcAdd c v s :=
  .call _ (reply := (·.crc.next)) (issue := fun s => { s with crc := s.crc.advance })
    (by constructor <;> intros <;> rfl)

theorem filter_parts (t : Txn) (f : Filter) :
    Parts 1 fun c s => transact c t (s.filterScript f).next s (s.advanceFilter f) :=
  .call t (reply := fun s => (s.filterScript f).next) (issue := (·.advanceFilter f))
    (by cases f <;> constructor <;> intros <;> rfl)

theorem injectAll_parts (i : SbIdx) (vs : List (Filter × F32)) :
    Parts vs.length fun c s => injectAll c i vs s := by
  induction vs with
  | nil => exact .skip ()
  | cons v vs ih =>
    exact ((filter_parts (.inject v.1 i v.2) v.1).bind fun _ => ih).mono (by simp [Nat.add_comm])

theorem getCode4_parts : Parts 1 getCode4 := (Parts.read 4).bind fun _ => .skip _

theorem foldCode_parts (a : BitVec 4) : Parts 1 fun c s => foldCode c a s :=
  .ite (P := (·.crcPresent = true)) (by constructor <;> intros <;> rfl) (crcAdd_parts a)
    ((Parts.skip ()).mono (Nat.zero_le 1))

theorem allocOne_parts (i : SbIdx) : Parts 2 fun c s => allocOne c i s :=
  getCode4_parts.bind fun a => (foldCode_parts a).bind fun _ =>
    .register () (g := (·.setAlloc i .c0 a)) (by constructor <;> intros <;> rfl)

theorem allocTwo_parts (i : SbIdx) : Parts 4 fun c s => allocTwo c i s :=
  getCode4_parts.bind fun a0 => getCode4_parts.bind fun a1 =>
    (foldCode_parts a0).bind fun _ => (foldCode_parts a1).bind fun _ =>
      .register () (g := fun s => (s.setAlloc i .c0 a0).setAlloc i .c1 a1) (by constructor <;> intros <;> rfl)

theorem readScf_parts (i : SbIdx) (k : Ch) : Parts 1 fun c s => readScf c i k s :=
  (Parts.read 6).bind fun v =>
    .register () (g := (·.setScf i k (BitVec.ofNat 6 v))) (by constructor <;> intros <;> rfl)

theorem scfChannel_parts (i : SbIdx) (k : Ch) : Parts 1 fun c s => scfChannel c i k s :=
  .ite (P := fun s => (s.chan i k).a ≠ 0#4) (by constructor <;> intros <;> rfl) (readScf_parts i k)
    ((Parts.skip ()).mono (Nat.zero_le 1))

theorem scfShared_parts (i : SbIdx) : Parts 2 fun c s => scfShared c i s :=
  .ite (P := fun s => (s.chan i .c0).a ≠ 0#4) (by constructor <;> intros <;> rfl)
    ((readScf_parts i .c0).bind fun _ => readScf_parts i .c1) ((Parts.skip ()).mono (Nat.zero_le 2))

theorem sampleChannel_parts (i : SbIdx) (k : Ch) : Parts 1 fun c s => sampleChannel c i k s :=
  .ite (P := fun s => (s.chan i k).a ≠ 0#4) (by constructor <;> intros <;> rfl)
    (.reading (F := fun w c s => (getBits c w s).bind fun v c s => .done () c (s.setRaw i k v))
      (r := fun s => (s.chan i k).w.toNat) (by constructor <;> intros <;> rfl) fun s =>
      (Parts.read _).bind fun v =>
        .register () (g := (·.setRaw i k v)) (by constructor <;> intros <;> rfl))
    ((Parts.skip ()).mono (Nat.zero_le 1))

theorem granuleStep_parts (i : SbIdx) : Parts 0 fun c s => Flow.done () c (s.granuleStep i) :=
  .register () (g := (·.granuleStep i)) (by constructor <;> intros <;> rfl)

theorem sampleOne_parts (i : SbIdx) : Parts 1 fun c s => sampleOne c i s :=
  (sampleChannel_parts i .c0).bind fun _ => granuleStep_parts i

theorem sampleTwo_parts (i : SbIdx) : Parts 2 fun c s => sampleTwo c i s :=
  ((sampleChannel_parts i .c0).bind fun _ =>
    (granuleStep_parts i).bind fun _ => sampleChannel_parts i .c1).mono (by omega)

/-- The Injects of one PUT are at most two (42_dequant_routing.md R142). -/
theorem emit_parts (i : SbIdx) {r : State → List (Filter × F32)} (hr : OnRegisters r)
    (hl : ∀ s, (r s).length ≤ 2) : Parts 2 fun c s => emit c i (r s) s :=
  .reading (F := fun vs c s => emit c i vs s) hr fun s =>
    ((injectAll_parts i (r s)).mono (hl s)).bind fun _ =>
      .register () (g := State.setWready) (by constructor <;> intros <;> rfl)

theorem createSb_parts (v : Variant) (i : SbIdx) : Parts 0 (createSb v i) :=
  .register () (g := (·.setEntry i (SbEntry.created v i))) (by constructor <;> intros <;> rfl)

/-- The checks, then a part. -/
theorem Parts.checked (i : SbIdx) (v : Variant) {n : Nat} {F : UopCtx → State → Flow Unit} (hF : Parts n F) :
    Parts n fun c s => (checkEntry c i v s).bind fun _ c t => F c t :=
  ((Parts.check i v).bind fun _ => hF).mono (by omega)

/-- Every uop has at most four transactions: those of ALLOC.ST (41_subband_ops.md R113). -/
theorem uopBody_parts (u : Instr) : Parts 4 (uopBody u) := by
  cases u with
  | createSbMono i => exact (createSb_parts .mono i).mono (by omega)
  | createSbSt i => exact (createSb_parts .st i).mono (by omega)
  | createSbIs i => exact (createSb_parts .is i).mono (by omega)
  | allocMono i => exact (Parts.checked i .mono (allocOne_parts i)).mono (by omega)
  | allocSt i => exact Parts.checked i .st (allocTwo_parts i)
  | allocIs i => exact (Parts.checked i .is (allocOne_parts i)).mono (by omega)
  | scfsiMono i => exact (Parts.check i .mono).mono (by omega)
  | scfsiSt i => exact (Parts.check i .st).mono (by omega)
  | scfsiIs i => exact (Parts.check i .is).mono (by omega)
  | scfMono i => exact (Parts.checked i .mono (scfChannel_parts i .c0)).mono (by omega)
  | scfSt i =>
    exact (Parts.checked i .st ((scfChannel_parts i .c0).bind fun _ => scfChannel_parts i .c1)).mono (by omega)
  | scfIs i => exact (Parts.checked i .is (scfShared_parts i)).mono (by omega)
  | sampleMono i => exact (Parts.checked i .mono (sampleOne_parts i)).mono (by omega)
  | sampleSt i => exact (Parts.checked i .st (sampleTwo_parts i)).mono (by omega)
  | sampleIs i => exact (Parts.checked i .is (sampleOne_parts i)).mono (by omega)
  | putMono i =>
    exact (Parts.checked i .mono (emit_parts i (r := (monoValues · i)) (by constructor <;> intros <;> rfl)
      fun s => by cases h : s.sel <;> simp [monoValues, routeMono, h])).mono (by omega)
  | putSt i =>
    exact (Parts.checked i .st (emit_parts i (r := (stValues · i)) (by constructor <;> intros <;> rfl)
      fun s => by cases h : s.sel <;> simp [stValues, routeTwo, h])).mono (by omega)
  | putIs i =>
    exact (Parts.checked i .is (emit_parts i (r := (isValues · i)) (by constructor <;> intros <;> rfl)
      fun s => by cases h : s.sel <;> simp [isValues, routeTwo, h])).mono (by omega)
  | synthA => exact (filter_parts (.synth .a) .a).mono (by omega)
  | synthB => exact (filter_parts (.synth .b) .b).mono (by omega)
  | cfg crc sel => exact (Parts.skip ()).mono (by omega)
  | decode => exact (Parts.skip ()).mono (by omega)

/-! ## A uop taken up again does what it does whole -/

/-- What x, the flow of F from s with k transactions to issue, leaves for F taken up again. Where it went on
it has put what completed in the trace, and F with those latched does the same to the registers and leaves
the ports alone; where it stands, it has issued k, and F with those latched, on the registers it began with
and the ports as they are, does all that F run whole does. -/
def Flow.Resumes {α : Type} (F : UopCtx → State → Flow α) (w : Word) (k : Nat) (s : State) : Flow α → Prop
  | .done a c t => ∃ new j, c = { word := w, replay := [], budget := some j } ∧ k = new.length + j ∧
      t.trace = s.trace ++ new ∧ F (UopCtx.fresh w) s = .done a (UopCtx.fresh w) t ∧
      ∀ rest b p, F { word := w, replay := new ++ rest, budget := b } (s.withPorts p) =
        .done a { word := w, replay := rest, budget := b } (t.withPorts p)
  | .pause m => ∃ new, k = new.length ∧ m.trace = s.trace ++ new ∧
      F { word := w, replay := new, budget := none } (s.withPorts m) = F (UopCtx.fresh w) s
  | .stop _ => True
  | .hang _ _ => True

/-- F may stand between any two of its transactions and be taken up again. -/
def Resumable {α : Type} (F : UopCtx → State → Flow α) : Prop :=
  ∀ (w : Word) (k : Nat) (s : State), (F { word := w, replay := [], budget := some k } s).Resumes F w k s

/-- Two parts that do the same wherever the registers are those of s. -/
theorem Flow.Resumes.congr {α : Type} {F G : UopCtx → State → Flow α} {w : Word} {k : Nat} {s : State}
    (h : ∀ c p, F c (s.withPorts p) = G c (s.withPorts p)) {x : Flow α} (hx : x.Resumes F w k s) :
    x.Resumes G w k s := by
  have h0 (c : UopCtx) : F c s = G c s := h c s
  cases x with
  | done a c t =>
    obtain ⟨new, j, hc, hk, ht, hw, hr⟩ := hx
    exact ⟨new, j, hc, hk, ht, (h0 _).symm.trans hw, fun rest b p => (h _ p).symm.trans (hr rest b p)⟩
  | pause m =>
    obtain ⟨new, hk, ht, hr⟩ := hx
    exact ⟨new, hk, ht, (h _ m).symm.trans (hr.trans (h0 _))⟩
  | stop t => trivial
  | hang x t => trivial

theorem Parts.resumable {α : Type} {n : Nat} {F : UopCtx → State → Flow α} (h : Parts n F) : Resumable F := by
  induction h with
  | read n =>
    intro w k s
    cases k with
    | zero => exact ⟨[], rfl, by simp, rfl⟩
    | succ k =>
      show (issueGetBits { word := w, replay := [], budget := some k } n s).Resumes _ w (k + 1) s
      rcases issueGetBits_cases { word := w, replay := [], budget := some k } n s with
        ⟨ha, hh, h⟩ | ⟨_, _, h⟩ | ⟨_, h⟩ <;> rw [h]
      · refine ⟨[{ txn := .getBits n, result := .value (natOfBits (s.br.peek n)) }], k, rfl, ?_, by simp, ?_,
          fun rest b p => ?_⟩
        · simp [Nat.add_comm]
        · simp [issueGetBits, ha, hh]
        · have hv := Nat.mod_eq_of_lt (BitReader.peek_lt hh)
          simp only [getBits, UopCtx.turn, List.cons_append, List.nil_append, Completion.bits, hv]
          rfl
      · trivial
      · trivial
  | call t hu =>
    rename_i reply issue
    intro w k s
    cases k with
    | zero => exact ⟨[], rfl, by simp, rfl⟩
    | succ k =>
      show (complete { word := w, replay := [], budget := some k } t (reply s) (issue s)).Resumes _ w (k + 1) s
      rcases complete_cases { word := w, replay := [], budget := some k } t (reply s) (issue s) with
        ⟨hr, h⟩ | ⟨_, h⟩ | ⟨_, h⟩ <;> rw [h]
      · refine ⟨[{ txn := t, result := .ok }], k, rfl, by simp [Nat.add_comm], by simp [hu.trace], ?_,
          fun rest b p => ?_⟩
        · simp [hr, complete]
        · rw [show ((issue s).record t .ok).withPorts p = s.withPorts p from hu.ports s p]
          rfl
      · trivial
      · trivial
  | check i v =>
    intro w k s
    rcases checkEntry_cases { word := w, replay := [], budget := some k } i v s with ⟨h1, h2, h⟩ | ⟨_, h⟩
    · simp only [h]
      exact ⟨[], k, rfl, by simp, by simp, checkEntry_ok h1 h2, fun rest b p => checkEntry_ok h1 h2⟩
    · simp only [h]; trivial
  | register a hg =>
    exact fun _ k s => ⟨[], k, rfl, by simp, by simp [hg.trace], rfl, fun rest b p => by simp [hg.ports]⟩
  | bind _ _ hF hG =>
    rename_i F G _ _
    intro w k s
    have h := hF w k s
    simp only
    cases hf : F { word := w, replay := [], budget := some k } s with
    | stop t => trivial
    | hang x t => trivial
    | pause m =>
      rw [hf] at h
      obtain ⟨new, hk, ht, hr⟩ := h
      exact ⟨new, hk, ht, by simp only [hr]⟩
    | done a c t =>
      rw [hf] at h
      obtain ⟨n1, j, rfl, hk, ht, hw, hr⟩ := h
      have h := hG a w j t
      rw [Flow.bind_done]
      cases hg : G a { word := w, replay := [], budget := some j } t with
      | stop u => trivial
      | hang x u => trivial
      | pause m =>
        rw [hg] at h
        obtain ⟨n2, hj, hu, hr2⟩ := h
        exact ⟨n1 ++ n2, by simp [hk, hj], by simp [hu, ht], by simp only [hr n2 none m, hw, Flow.bind_done, hr2]⟩
      | done b c u =>
        rw [hg] at h
        obtain ⟨n2, j2, rfl, hj, hu, hw2, hr2⟩ := h
        refine ⟨n1 ++ n2, j2, rfl, by simp [hk, hj, Nat.add_assoc], by simp [hu, ht],
          by simp only [hw, Flow.bind_done, hw2], fun rest b' p => ?_⟩
        simp only [List.append_assoc, hr (n2 ++ rest) b' p, Flow.bind_done, hr2 rest b' p]
  | reading hr _ hF =>
    intro w k s
    exact (hF s w k s).congr fun c p => by rw [hr.ports]
  | mono _ _ hF => exact hF

/-! ## The grain and what is latched are no operands -/

/-- A flow with every state in it changed by g. -/
def Flow.mapState {α : Type} (g : State → State) : Flow α → Flow α
  | .done a c s => .done a c (g s)
  | .stop s => .stop (g s)
  | .hang t s => .hang t (g s)
  | .pause s => .pause (g s)

/-- F neither reads nor writes the grain and what is latched: only its context tells it of them. -/
def Grainless {α : Type} (F : UopCtx → State → Flow α) : Prop :=
  ∀ (b : Option Nat) (f : Option InFlight) (c : UopCtx) (s : State),
    F c (s.withGrain b f) = (F c s).mapState (·.withGrain b f)

theorem issueGetBits_grainless (n : Nat) : Grainless fun c s => issueGetBits c n s := by
  intro b f c s
  rcases issueGetBits_cases c n s with ⟨ha, hh, h⟩ | ⟨ha, hh, h⟩ | ⟨ha, h⟩ <;> simp only [h]
  · exact (issueGetBits_cases c n (s.withGrain b f)).elim (fun h => h.2.2) fun h =>
      h.elim (fun h => absurd (hh.symm.trans h.2.1) (by simp)) fun h => absurd (ha.symm.trans h.1) (by simp)
  · exact (issueGetBits_cases c n (s.withGrain b f)).elim
      (fun h => absurd (hh.symm.trans h.2.1) (by simp)) fun h =>
      h.elim (fun h => h.2.2) fun h => absurd (ha.symm.trans h.1) (by simp)
  · exact (issueGetBits_cases c n (s.withGrain b f)).elim
      (fun h => absurd (ha.symm.trans h.1) (by simp)) fun h =>
      h.elim (fun h => absurd (ha.symm.trans h.1) (by simp)) fun h => h.2

theorem Parts.grainless {α : Type} {n : Nat} {F : UopCtx → State → Flow α} (h : Parts n F) : Grainless F := by
  induction h with
  | read n =>
    intro b f c s
    simp only [getBits]
    cases c.turn with
    | latched e c => rfl
    | wait => rfl
    | issue c => exact issueGetBits_grainless n b f c s
  | call t hu =>
    rename_i reply issue
    intro b f c s
    simp only [transact, hu.reply, hu.grain]
    cases c.turn with
    | latched e c => rfl
    | wait => rfl
    | issue c => simp only; cases reply s <;> rfl
  | check i v =>
    intro b f c s
    rcases checkEntry_cases c i v s with ⟨h1, h2, h⟩ | ⟨hn, h⟩ <;> simp only [h]
    · exact checkEntry_ok h1 h2
    · exact checkEntry_bad (s := s.withGrain b f) hn
  | register a hg =>
    intro b f c s
    simp only [hg.grain]
    rfl
  | bind _ _ hF hG =>
    rename_i F G _ _
    intro b f c s
    simp only [hF b f c s]
    cases F c s with
    | done a c t => exact hG a b f c t
    | stop t => rfl
    | hang x t => rfl
    | pause t => rfl
  | reading hr _ hF =>
    intro b f c s
    simp only [hr.grain]
    exact hF s b f c s
  | mono _ _ hF => exact hF

/-! ## A whole uop does not stand between its transactions -/

/-- A flow of a whole uop: it goes on as one and never stands before a transaction. -/
def Flow.Whole {α : Type} : Flow α → Prop
  | .done _ c _ => c.replay = [] ∧ c.budget = none
  | .stop _ => True
  | .hang _ _ => True
  | .pause _ => False

/-- With no grain set and nothing latched, a part runs to its end, or to a transaction that never completes. -/
theorem Parts.whole {α : Type} {n : Nat} {F : UopCtx → State → Flow α} (h : Parts n F) :
    ∀ (c : UopCtx) (s : State), c.replay = [] → c.budget = none → (F c s).Whole := by
  have issues (c : UopCtx) (hr : c.replay = []) (hb : c.budget = none) : c.turn = .issue c := by
    simp [UopCtx.turn, hr, hb]
  induction h with
  | read n =>
    intro c s hr hb
    simp only [getBits, issues c hr hb]
    rcases issueGetBits_cases c n s with ⟨_, _, h⟩ | ⟨_, _, h⟩ | ⟨_, h⟩ <;> simp [h, Flow.Whole, hr, hb]
  | call t hu =>
    rename_i reply issue
    intro c s hr hb
    simp only [transact, issues c hr hb]
    rcases complete_cases c t (reply s) (issue s) with ⟨_, h⟩ | ⟨_, h⟩ | ⟨_, h⟩ <;> simp [h, Flow.Whole, hr, hb]
  | check i v =>
    intro c s hr hb
    rcases checkEntry_cases c i v s with ⟨_, _, h⟩ | ⟨_, h⟩ <;> simp [h, Flow.Whole, hr, hb]
  | register a _ => exact fun c s hr hb => ⟨hr, hb⟩
  | bind _ _ hF hG =>
    rename_i F G _ _
    intro c s hr hb
    have h := hF c s hr hb
    simp only
    cases hf : F c s with
    | done a c t => rw [hf] at h; exact hG a c t h.1 h.2
    | stop t => trivial
    | hang x t => trivial
    | pause t => rw [hf] at h; exact h.elim
  | reading _ _ hF => exact fun c s hr hb => hF s c s hr hb
  | mono _ _ hF => exact hF

/-- With no grain set and none begun, a uop run in part is the whole uop: `issueWord`'s two arms agree. -/
theorem State.partUop_whole (u : Instr) (s : State) (d : Option Word) (h : u.port = .uopBus)
    (hf : s.inFlight = none) (hb : s.budget = none) : exec u s = .next (s.partUop d u) := by
  have hc : s.uopCtx (encode u) = UopCtx.fresh (encode u) := by
    simp [State.uopCtx, UopCtx.fresh, State.latched, hf, hb]
  have hw : (uopBody u (UopCtx.fresh (encode u)) s).Whole := (uopBody_parts u).whole _ s rfl rfl
  have hk := (uopBody_keeps u (UopCtx.fresh (encode u)) s).settle.inFlight
  have clear (t : State) (ht : t.inFlight = none) : { t with inFlight := none } = t := by rw [← ht]
  rw [exec_uop u s h]
  unfold runUop State.partUop
  rw [hc]
  cases hx : uopBody u (UopCtx.fresh (encode u)) s with
  | pause t => rw [hx] at hw; exact hw.elim
  | done a c t => rw [hx, hf] at hk; exact congrArg _ (clear t hk).symm
  | stop t => rw [hx, hf] at hk; exact congrArg _ (clear t hk).symm
  | hang y t => rw [hx, hf] at hk; exact congrArg _ (clear _ hk).symm

/-! ## How far a step takes a uop -/

/-- Of the latched completions l and k more transactions, at most n in all: where the flow goes on, those
it has used are counted off; where it stands, all of l is used and all k are issued, and one more is to
come. -/
def Flow.Spends {α : Type} (n : Nat) (l : List Event) (k : Nat) (s : State) : Flow α → Prop
  | .done _ c t => ∃ used new j, l = used ++ c.replay ∧ c.budget = some j ∧ k = new.length + j ∧
      t.trace = s.trace ++ new ∧ used.length + new.length ≤ n ∧ (new ≠ [] → c.replay = [])
  | .pause m => ∃ new, m.trace = s.trace ++ new ∧ new.length = k ∧ l.length + k < n
  | .stop _ => True
  | .hang _ _ => True

theorem Flow.Spends.mono {α : Type} {m n : Nat} {l : List Event} {k : Nat} {s : State} {x : Flow α}
    (hx : x.Spends m l k s) (h : m ≤ n) : x.Spends n l k s := by
  cases x with
  | done a c t =>
    obtain ⟨used, new, j, h1, h2, h3, h4, h5, h6⟩ := hx
    exact ⟨used, new, j, h1, h2, h3, h4, by omega, h6⟩
  | pause t =>
    obtain ⟨new, h1, h2, h3⟩ := hx
    exact ⟨new, h1, h2, by omega⟩
  | stop t => trivial
  | hang y t => trivial

/-- With a grain set, a part that stands has used every latched completion and issued as many transactions as
the grain allows. -/
theorem Parts.spends {α : Type} {n : Nat} {F : UopCtx → State → Flow α} (h : Parts n F) :
    ∀ (w : Word) (l : List Event) (k : Nat) (s : State),
      (F { word := w, replay := l, budget := some k } s).Spends n l k s := by
  induction h with
  | read n =>
    intro w l k s
    cases l with
    | cons e l => exact ⟨[e], [], k, rfl, rfl, by simp, by simp, by simp, by simp⟩
    | nil =>
      cases k with
      | zero => exact ⟨[], by simp, rfl, by simp⟩
      | succ k =>
        show (issueGetBits { word := w, replay := [], budget := some k } n s).Spends 1 [] (k + 1) s
        rcases issueGetBits_cases { word := w, replay := [], budget := some k } n s with
          ⟨_, _, h⟩ | ⟨_, _, h⟩ | ⟨_, h⟩ <;> rw [h]
        · exact ⟨[], [{ txn := .getBits n, result := .value (natOfBits (s.br.peek n)) }], k, rfl, rfl,
            by simp [Nat.add_comm], by simp, by simp, by simp⟩
        · trivial
        · trivial
  | call t hu =>
    rename_i reply issue
    intro w l k s
    cases l with
    | cons e l => exact ⟨[e], [], k, rfl, rfl, by simp, by simp, by simp, by simp⟩
    | nil =>
      cases k with
      | zero => exact ⟨[], by simp, rfl, by simp⟩
      | succ k =>
        show (complete { word := w, replay := [], budget := some k } t (reply s) (issue s)).Spends 1 [] (k + 1) s
        rcases complete_cases { word := w, replay := [], budget := some k } t (reply s) (issue s) with
          ⟨_, h⟩ | ⟨_, h⟩ | ⟨_, h⟩ <;> rw [h]
        · exact ⟨[], [{ txn := t, result := .ok }], k, rfl, rfl, by simp [Nat.add_comm], by simp [hu.trace],
            by simp, by simp⟩
        · trivial
        · trivial
  | check i v =>
    intro w l k s
    rcases checkEntry_cases { word := w, replay := l, budget := some k } i v s with ⟨_, _, h⟩ | ⟨_, h⟩ <;>
      simp only [h]
    · exact ⟨[], [], k, rfl, rfl, by simp, by simp, by simp, by simp⟩
    · trivial
  | register a hg => exact fun w l k s => ⟨[], [], k, rfl, rfl, by simp, by simp [hg.trace], by simp, by simp⟩
  | bind _ _ hF hG =>
    rename_i F G _ _
    intro w l k s
    have h := hF w l k s
    simp only
    cases hf : F { word := w, replay := l, budget := some k } s with
    | stop t => trivial
    | hang x t => trivial
    | pause t =>
      rw [hf] at h
      exact Flow.Spends.mono (x := .pause t) h (by omega)
    | done a c t =>
      rw [hf] at h
      obtain ⟨used, new, j, hl, hc, hk, ht, hn, he⟩ := h
      obtain ⟨cw, cr, cb⟩ := c
      subst hc
      have h := hG a cw cr j t
      rw [Flow.bind_done]
      cases hg : G a { word := cw, replay := cr, budget := some j } t with
      | stop u => trivial
      | hang x u => trivial
      | pause u =>
        rw [hg] at h
        obtain ⟨new2, hu, hj, hlt⟩ := h
        refine ⟨new ++ new2, by simp [hu, ht], by simp [hk, hj], ?_⟩
        simp only [hl, List.length_append]
        omega
      | done b c u =>
        rw [hg] at h
        obtain ⟨used2, new2, j2, hl2, hc2, hj, hu, hn2, he2⟩ := h
        refine ⟨used ++ used2, new ++ new2, j2, ?_, hc2, by simp [hk, hj, Nat.add_assoc], by simp [hu, ht], ?_, ?_⟩
        · rw [hl, List.append_assoc]; exact congrArg _ hl2
        · simp only [List.length_append]; omega
        · intro hne
          by_cases h2 : new2 = []
          · have h1 : new ≠ [] := fun h1 => hne (by simp [h1, h2])
            have h3 : cr = [] := he h1
            exact (List.append_eq_nil_iff.mp (hl2.symm.trans h3)).2
          · exact he2 h2
  | reading _ _ hF => exact fun w l k s => hF s w l k s
  | mono _ h hF => exact fun w l k s => (hF w l k s).mono h

end Sys2Proof.Machine
end

