-- ==== Sys2Proof/Laws/PerInstr.lean ====
section
/-! SUPPORT. Statements about every operation as syntax, one lemma per constructor of Instr. -/

namespace Sys2Proof.Laws

/-- Decoding the word of a well-formed operation gives it back, and its word is legal on its own port
alone (spec/30_encoding.md R88, R90, R91). -/
def RoundTrip.Statement (i : Instr) : Prop :=
  i.wellFormed = true →
    decodeWord (encode i) = some i ∧
    (i.port = .uopBus → decodeUop (encode i) = some i ∧ decodeCmd (encode i) = none) ∧
    (i.port = .cmd → decodeCmd (encode i) = some i ∧ decodeUop (encode i) = none)

theorem RoundTrip.createSbMono : ∀ sb, RoundTrip.Statement (.createSbMono sb) := by
  unfold RoundTrip.Statement; decide +kernel

theorem RoundTrip.createSbSt : ∀ sb, RoundTrip.Statement (.createSbSt sb) := by
  unfold RoundTrip.Statement; decide +kernel

theorem RoundTrip.createSbIs : ∀ sb, RoundTrip.Statement (.createSbIs sb) := by
  unfold RoundTrip.Statement; decide +kernel

theorem RoundTrip.allocMono : ∀ sb, RoundTrip.Statement (.allocMono sb) := by
  unfold RoundTrip.Statement; decide +kernel

theorem RoundTrip.allocSt : ∀ sb, RoundTrip.Statement (.allocSt sb) := by
  unfold RoundTrip.Statement; decide +kernel

theorem RoundTrip.allocIs : ∀ sb, RoundTrip.Statement (.allocIs sb) := by
  unfold RoundTrip.Statement; decide +kernel

theorem RoundTrip.scfsiMono : ∀ sb, RoundTrip.Statement (.scfsiMono sb) := by
  unfold RoundTrip.Statement; decide +kernel

theorem RoundTrip.scfsiSt : ∀ sb, RoundTrip.Statement (.scfsiSt sb) := by
  unfold RoundTrip.Statement; decide +kernel

theorem RoundTrip.scfsiIs : ∀ sb, RoundTrip.Statement (.scfsiIs sb) := by
  unfold RoundTrip.Statement; decide +kernel

theorem RoundTrip.scfMono : ∀ sb, RoundTrip.Statement (.scfMono sb) := by
  unfold RoundTrip.Statement; decide +kernel

theorem RoundTrip.scfSt : ∀ sb, RoundTrip.Statement (.scfSt sb) := by
  unfold RoundTrip.Statement; decide +kernel

theorem RoundTrip.scfIs : ∀ sb, RoundTrip.Statement (.scfIs sb) := by
  unfold RoundTrip.Statement; decide +kernel

theorem RoundTrip.sampleMono : ∀ sb, RoundTrip.Statement (.sampleMono sb) := by
  unfold RoundTrip.Statement; decide +kernel

theorem RoundTrip.sampleSt : ∀ sb, RoundTrip.Statement (.sampleSt sb) := by
  unfold RoundTrip.Statement; decide +kernel

theorem RoundTrip.sampleIs : ∀ sb, RoundTrip.Statement (.sampleIs sb) := by
  unfold RoundTrip.Statement; decide +kernel

theorem RoundTrip.putMono : ∀ sb, RoundTrip.Statement (.putMono sb) := by
  unfold RoundTrip.Statement; decide +kernel

theorem RoundTrip.putSt : ∀ sb, RoundTrip.Statement (.putSt sb) := by
  unfold RoundTrip.Statement; decide +kernel

theorem RoundTrip.putIs : ∀ sb, RoundTrip.Statement (.putIs sb) := by
  unfold RoundTrip.Statement; decide +kernel

theorem RoundTrip.synthA : RoundTrip.Statement .synthA := by
  unfold RoundTrip.Statement; decide +kernel

theorem RoundTrip.synthB : RoundTrip.Statement .synthB := by
  unfold RoundTrip.Statement; decide +kernel

theorem RoundTrip.cfg : ∀ crc sel, RoundTrip.Statement (.cfg crc sel) := by
  unfold RoundTrip.Statement; decide +kernel

theorem RoundTrip.decode : RoundTrip.Statement .decode := by
  unfold RoundTrip.Statement; decide +kernel

end Sys2Proof.Laws
end

