-- ==== Sys2Proof/Tests/Slice0.lean ====
section
/-! SUPPORT. Tests: words written out from spec/30_encoding.md, one step of each instruction with the results
of spec/95_test_vectors.md, and for every statement with hypotheses a concrete case that meets them. -/

namespace Sys2Proof.Tests

open Sys2Proof Sys2Proof.Machine

-- One theorem after the other: many kernel evaluations at once each hold a thread.
set_option Elab.async false

/-! ## WellFormed -/

/-- SEL = 3 is no operand of CFG (R91, R92). -/
theorem test_wf_cfg_sel3_refused : Instr.wellFormed (.cfg false 3#2) = false ∧
    Instr.wellFormed (.cfg true 3#2) = false := by decide

theorem test_wf_cfg_sel_ok : Instr.wellFormed (.cfg true 0#2) = true ∧
    Instr.wellFormed (.cfg true 1#2) = true ∧ Instr.wellFormed (.cfg false 2#2) = true := by decide

/-! ## Decode: the words of R88, written out bit by bit: OPC, VAR, Z, SB; OPC, zeros, CRC, SEL -/

theorem test_decode_createSb :
    decodeUop 0b0001000000000000#16 = some (.createSbMono 0#5) ∧
    decodeUop 0b0001010000000001#16 = some (.createSbSt 1#5) ∧
    decodeUop 0b0001100000000111#16 = some (.createSbIs 7#5) := by decide

theorem test_decode_alloc :
    decodeUop 0b0010000000011111#16 = some (.allocMono 31#5) ∧
    decodeUop 0b0010010000000101#16 = some (.allocSt 5#5) ∧
    decodeUop 0b0010100000000001#16 = some (.allocIs 1#5) := by decide

theorem test_decode_scfsi :
    decodeUop 0b0011000000000100#16 = some (.scfsiMono 4#5) ∧
    decodeUop 0b0011010000000011#16 = some (.scfsiSt 3#5) ∧
    decodeUop 0b0011100000010000#16 = some (.scfsiIs 16#5) := by decide

theorem test_decode_scf :
    decodeUop 0b0100000000000000#16 = some (.scfMono 0#5) ∧
    decodeUop 0b0100010000001000#16 = some (.scfSt 8#5) ∧
    decodeUop 0b0100100000000001#16 = some (.scfIs 1#5) := by decide

theorem test_decode_sample :
    decodeUop 0b0101000000000000#16 = some (.sampleMono 0#5) ∧
    decodeUop 0b0101010000000010#16 = some (.sampleSt 2#5) ∧
    decodeUop 0b0101100000000001#16 = some (.sampleIs 1#5) := by decide

theorem test_decode_put :
    decodeUop 0b0110000000000011#16 = some (.putMono 3#5) ∧
    decodeUop 0b0110010000000110#16 = some (.putSt 6#5) ∧
    decodeUop 0b0110100000011111#16 = some (.putIs 31#5) := by decide

theorem test_decode_synth :
    decodeUop 0b0111000000000000#16 = some .synthA ∧
    decodeUop 0b0111000000000001#16 = some .synthB := by decide

theorem test_decode_commands :
    decodeCmd 0b1000000000000000#16 = some (.cfg false 0#2) ∧
    decodeCmd 0b1000000000000101#16 = some (.cfg true 1#2) ∧
    decodeCmd 0b1000000000000110#16 = some (.cfg true 2#2) ∧
    decodeCmd 0b1001000000000000#16 = some .decode := by decide

/-- V-ENC-6 to V-ENC-12. -/
theorem test_decode_illegal_uops :
    decodeUop 0x0000#16 = none ∧ decodeUop 0x1C00#16 = none ∧ decodeUop 0x2020#16 = none ∧
    decodeUop 0x7002#16 = none ∧ decodeUop 0x7400#16 = none ∧ decodeUop 0x8000#16 = none ∧
    decodeUop 0xA000#16 = none := by decide

/-- V-ENC-17 to V-ENC-22. -/
theorem test_decode_illegal_commands :
    decodeCmd 0x8003#16 = none ∧ decodeCmd 0x8007#16 = none ∧ decodeCmd 0x8008#16 = none ∧
    decodeCmd 0x9001#16 = none ∧ decodeCmd 0x9800#16 = none ∧ decodeCmd 0x1000#16 = none ∧
    decodeCmd 0x6000#16 = none ∧ decodeCmd 0xF000#16 = none ∧ decodeCmd 0x0000#16 = none := by decide

/-! ## Small states -/

/-- The w low bits of n, most significant first. -/
def bitsOf (w n : Nat) : List Bool := (List.range w).map fun k => (n >>> (w - 1 - k)) % 2 == 1

/-- A configured machine whose entry i is e and whose stream is `bits`. -/
def start (i : SbIdx) (e : SbEntry) (bits : List Bool) : State :=
  { State.reset.setEntry i e with
    created := true, br := { bits := bits, cursor := 0, replies := Script.always .answers } }

/-- A channel as ALLOC and SCF leave it, holding a raw sample. -/
def channel (a : BitVec 4) (raw : BitVec 16) (scfi : BitVec 6) : Chan :=
  { Chan.zero.withAlloc .stepwise a with raw := raw, scfi := scfi, scf := scfRom scfi }

/-- An entry of variant v with its two channels. -/
def entry (v : Variant) (i : SbIdx) (c0 c1 : Chan) : SbEntry :=
  { SbEntry.created v i with ch0 := c0, ch1 := c1 }

/-- The state a step leaves, if it leaves one. -/
def after : Host.Outcome State Fault Refusal → Option State
  | .next s => some s
  | _ => none

/-- The trace a step leaves. -/
def traceOf (o : Host.Outcome State Fault Refusal) : Option (List Event) := (after o).map (·.trace)

/-- A filter script whose first transaction fails. -/
def failing : Script Reply := { queue := [.err], rest := .ok }

/-! ## One step of each instruction -/

/-- V-CREATE-2, and V-CREATE-1: the overwrite is complete. -/
theorem test_createSb_overwrites :
    (after (exec (.createSbMono 2#5)
      (start 2#5 { entry .st 2#5 (channel 5#4 9#16 1#6) (channel 0#4 0#16 0#6) with gcnt := 7#4 } []))).map
        (·.entry 2#5) =
      some { valid := true, var := .mono, idx := 2#5, ch0 := Chan.zero, ch1 := Chan.zero, gcnt := 0#4 } ∧
    (after (exec (.createSbIs 7#5) State.reset)).map (·.entry 7#5) =
      some { valid := true, var := .is, idx := 7#5, ch0 := Chan.zero, ch1 := Chan.zero, gcnt := 0#4 } ∧
    (after (exec (.createSbSt 31#5) State.reset)).map (fun s => ((s.entry 31#5).var, s.trace)) =
      some (.st, []) := by decide +kernel

/-- V-ALLOC-1. -/
theorem test_allocMono :
    (after (exec (.allocMono 0#5)
      { start 0#5 (SbEntry.created .mono 0#5) (bitsOf 4 4) with crcPresent := true })).map
        (fun s => ((s.entry 0#5).ch0, s.bitcnt, s.trace)) =
      some ({ Chan.zero with a := 4#4, w := 5#5, fac := 0x3D842108#32, off := 0xBF77BDEF#32 }, 4#32,
        [{ txn := .getBits 4, result := .value 4 }, { txn := .crcAdd 4#4, result := .ok }]) := by decide +kernel

/-- V-ALLOC-4. -/
theorem test_allocSt :
    (after (exec (.allocSt 0#5)
      { start 0#5 (SbEntry.created .st 0#5) (bitsOf 8 0x3F) with crcPresent := true })).map
        (fun s => ((s.entry 0#5).ch0, (s.entry 0#5).ch1, s.trace)) =
      some ({ Chan.zero with a := 3#4, w := 4#5, fac := 0x3E088889#32, off := 0xBF6EEEF0#32 },
        { Chan.zero with a := 15#4, w := 16#5 },
        [{ txn := .getBits 4, result := .value 3 }, { txn := .getBits 4, result := .value 15 },
          { txn := .crcAdd 3#4, result := .ok }, { txn := .crcAdd 15#4, result := .ok }]) := by decide +kernel

/-- V-ALLOC-6. -/
theorem test_allocSt_exhausted :
    (after (exec (.allocSt 0#5)
      { start 0#5 (SbEntry.created .st 0#5) (bitsOf 4 2) with crcPresent := true })).map
        (fun s => (s.fsm, s.cause, s.bitcnt, s.errWord, s.trace)) =
      some (.error, .bitstreamExhausted, 4#32, 0x2400#16,
        [{ txn := .getBits 4, result := .value 2 }, { txn := .getBits 4, result := .exhausted }]) := by
  decide +kernel

/-- V-ALLOC-5. -/
theorem test_allocIs :
    (after (exec (.allocIs 1#5) (start 1#5 (SbEntry.created .is 1#5) (bitsOf 4 1)))).map
        (fun s => ((s.entry 1#5).ch0, (s.entry 1#5).ch1)) =
      some ({ Chan.zero with a := 1#4, w := 2#5, fac := 0x3F2AAAAB#32, off := 0xBF2AAAAB#32 }, Chan.zero) := by
  decide +kernel

/-- V-SCFSI-1, V-SCFSI-2. -/
theorem test_scfsi :
    after (exec (.scfsiSt 3#5) (start 3#5 (SbEntry.created .st 3#5) [])) =
      some (start 3#5 (SbEntry.created .st 3#5) []) ∧
    (after (exec (.scfsiMono 4#5) State.reset)).map (fun s => (s.cause, s.errWord, s.trace)) =
      some (.illegalUop, 0x3004#16, []) ∧
    (after (exec (.scfsiIs 4#5) (start 4#5 (SbEntry.created .is 4#5) []))).map (·.fsm) = some .idle := by
  decide +kernel

/-- V-SCF-1, V-SCF-3. -/
theorem test_scfMono :
    (after (exec (.scfMono 0#5) (start 0#5 (entry .mono 0#5 (channel 4#4 0#16 0#6) Chan.zero)
      (bitsOf 6 3)))).map (fun s => ((s.entry 0#5).ch0.scfi, (s.entry 0#5).ch0.scf)) =
      some (3#6, 0x3F800000#32) ∧
    (after (exec (.scfMono 0#5) (start 0#5 (entry .mono 0#5 (channel 15#4 0#16 0#6) Chan.zero)
      (bitsOf 6 63)))).map (fun s => ((s.entry 0#5).ch0.scfi, (s.entry 0#5).ch0.scf, s.fsm)) =
      some (63#6, 0#32, .idle) := by decide +kernel

/-- V-SCF-4, V-SCF-5. -/
theorem test_scfSt :
    (after (exec (.scfSt 0#5) (start 0#5 (entry .st 0#5 (channel 0#4 0#16 63#6) (channel 2#4 0#16 9#6))
      (bitsOf 6 0)))).map (fun s => ((s.entry 0#5).ch0.scf, (s.entry 0#5).ch1.scfi, (s.entry 0#5).ch1.scf)) =
      some (0#32, 0#6, 0x40000000#32) ∧
    (after (exec (.scfSt 0#5) (start 0#5 (entry .st 0#5 (channel 1#4 0#16 0#6) (channel 1#4 0#16 0#6))
      (bitsOf 12 0x042)))).map (fun s => ((s.entry 0#5).ch0.scf, (s.entry 0#5).ch1.scf)) =
      some (0x3FCB2FF5#32, 0x3FA14518#32) := by decide +kernel

/-- V-SCF-6, V-SCF-8. -/
theorem test_scfIs :
    (after (exec (.scfIs 1#5) (start 1#5 (entry .is 1#5 (channel 1#4 0#16 0#6) Chan.zero)
      (bitsOf 12 0x0C6)))).map (fun s => ((s.entry 1#5).ch0.scf, (s.entry 1#5).ch1.scf)) =
      some (0x3F800000#32, 0x3F000000#32) ∧
    (after (exec (.scfIs 1#5) (start 1#5 (entry .is 1#5 (channel 1#4 0#16 0#6) Chan.zero)
      (bitsOf 6 3)))).map (fun s => (s.cause, s.bitcnt)) = some (.bitstreamExhausted, 6#32) := by
  decide +kernel

/-- V-SAMPLE-1, V-SAMPLE-3. -/
theorem test_sampleMono :
    (after (exec (.sampleMono 0#5) (start 0#5 (entry .mono 0#5 (channel 4#4 0#16 0#6) Chan.zero)
      (bitsOf 5 16)))).map (fun s => ((s.entry 0#5).ch0.raw, (s.entry 0#5).gcnt, s.rready)) =
      some (16#16, 1#4, false) ∧
    (after (exec (.sampleMono 0#5)
      (start 0#5 { entry .mono 0#5 (channel 15#4 0#16 0#6) Chan.zero with gcnt := 11#4 }
      (bitsOf 16 0xFFFF)))).map (fun s => ((s.entry 0#5).ch0.raw, (s.entry 0#5).gcnt, s.rready)) =
      some (65535#16, 0#4, true) := by decide +kernel

/-- V-SAMPLE-4, V-SAMPLE-8. -/
theorem test_sampleSt :
    (after (exec (.sampleSt 0#5) (start 0#5 (entry .st 0#5 (channel 1#4 0#16 0#6) (channel 3#4 0#16 0#6))
      (bitsOf 6 0x27)))).map
        (fun s => ((s.entry 0#5).ch0.raw, (s.entry 0#5).ch1.raw, (s.entry 0#5).gcnt, s.rready)) =
      some (2#16, 7#16, 1#4, false) ∧
    (after (exec (.sampleSt 0#5)
      (start 0#5 { entry .st 0#5 (channel 2#4 0#16 0#6) (channel 2#4 0#16 0#6) with gcnt := 11#4 }
      (bitsOf 3 3)))).map (fun s => (s.cause, s.rready, s.bitcnt)) =
      some (.bitstreamExhausted, true, 3#32) := by decide +kernel

/-- V-SAMPLE-6. -/
theorem test_sampleIs :
    (after (exec (.sampleIs 1#5)
      (start 1#5 { entry .is 1#5 (channel 1#4 0#16 0#6) Chan.zero with gcnt := 3#4 }
      (bitsOf 2 3)))).map (fun s => ((s.entry 1#5).ch0.raw, (s.entry 1#5).ch1.raw, (s.entry 1#5).gcnt)) =
      some (3#16, 0#16, 4#4) := by decide +kernel

/-- V-PUT-M-1 and V-PUT-M-8: a zero keeps its sign. -/
theorem test_putMono :
    traceOf (exec (.putMono 0#5) (start 0#5 (entry .mono 0#5 (channel 4#4 16#16 3#6) Chan.zero) [])) =
      some [{ txn := .inject .a 0#5 0x3D842108#32, result := .ok }] ∧
    traceOf (exec (.putMono 0#5) (start 0#5 (entry .mono 0#5 (channel 4#4 0#16 63#6) Chan.zero) [])) =
      some [{ txn := .inject .a 0#5 0x80000000#32, result := .ok }] := by decide +kernel

/-- V-PUT-S-1, and V-PUT-S-4 under STEPWISE. -/
theorem test_putSt :
    traceOf (exec (.putSt 9#5)
      (start 9#5 (entry .st 9#5 (channel 1#4 3#16 3#6) (channel 2#4 0#16 0#6)) [])) =
      some [{ txn := .inject .a 9#5 0x3FAAAAAA#32, result := .ok },
        { txn := .inject .b 9#5 0xBFDB6DB8#32, result := .ok }] ∧
    traceOf (exec (.putSt 9#5)
      { start 9#5 (entry .st 9#5 (channel 15#4 43981#16 0#6) (channel 3#4 8#16 3#6)) [] with
        sel := .rightOnly }) =
      some [{ txn := .inject .a 9#5 0x3E088888#32, result := .ok }] := by decide +kernel

/-- V-PUT-I-6 and V-PUT-I-3. -/
theorem test_putIs :
    traceOf (exec (.putIs 2#5)
      (start 2#5 (entry .is 2#5 (channel 1#4 3#16 1#6) (channel 0#4 0#16 0#6 |>.scaled 0#6)) [])) =
      some [{ txn := .inject .a 2#5 0x4007754D#32, result := .ok },
        { txn := .inject .b 2#5 0x402AAAAA#32, result := .ok }] ∧
    traceOf (exec (.putIs 2#5)
      { start 2#5 (entry .is 2#5 (channel 1#4 3#16 3#6) (Chan.zero.scaled 6#6)) [] with
        sel := .rightOnly }) =
      some [{ txn := .inject .a 2#5 0x3F2AAAAA#32, result := .ok }] := by decide +kernel

/-- V-SYNTH-1 to V-SYNTH-3. -/
theorem test_synth :
    traceOf (exec .synthA State.reset) = some [{ txn := .synth .a, result := .ok }] ∧
    traceOf (exec .synthB State.reset) = some [{ txn := .synth .b, result := .ok }] ∧
    (after (exec .synthA { State.reset with fa := failing })).map (fun s => (s.cause, s.errWord)) =
      some (.collaboratorError, 0x7000#16) := by decide +kernel

/-- R160's example: CONFIG = 4 and CREATED = 1. -/
theorem test_cfg :
    (after (exec (.cfg true 0#2) State.reset)).map (fun s => (s.regRead 1#3, s.created, s.fsm)) =
      some (some 4#32, true, .idle) := by decide +kernel

/-- R161's example: FRAME = 0x007, FSM = INIT; and NOT_CREATED before any CFG. -/
theorem test_decode :
    (after (exec .decode { State.reset with
      created := true
      pins := { Pins.quiet with hdr := { mode := .mono, n := 1#6, b := 0#6, ckok := false } } })).map
        (fun s => (s.regRead 2#3, s.fsm)) = some (some 7#32, .init) ∧
    (after (exec .decode State.reset)).map (fun s => (s.cause, s.errSrc)) =
      some (.notCreated, .hostCommand) := by decide +kernel

/-- A word placed in the reset state runs at the first step. -/
theorem test_placed_word_runs :
    (after (step (State.reset.withFetchWord 16 0x1807))).map (fun s => (s.entry 7#5).var) = some .is ∧
    (after (step (State.reset.withFetchWord 16 0x8006))).map (·.sel) = some .rightOnly := by decide +kernel

/-! ## Witnesses: for each statement with hypotheses, cases that meet them, clause by clause -/

/-- A one-subband Mono frame just started, its stream given, its checksum good or bad. -/
def frameOf (bits : List Bool) (ckok : Bool) : State :=
  { State.reset with
    created := true, br := { bits := bits, cursor := 0, replies := Script.always .answers }
    pins := { Pins.quiet with hdr := { mode := .mono, n := 1#6, b := 0#6, ckok := ckok } } }.startFrame

/-- The host about to send DECODE for that frame. -/
def hostOf (bits : List Bool) (ckok : Bool) : State :=
  { State.reset with
    created := true, br := { bits := bits, cursor := 0, replies := Script.always .answers }
    pins := { Pins.quiet with hdr := { mode := .mono, n := 1#6, b := 0#6, ckok := ckok } } }

/-- That frame's guard step: the only SCFSI is next. -/
def atGuard (ckok : Bool) : State :=
  { (frameOf [] ckok).setEntry 0#5 (SbEntry.created .mono 0#5) with fsm := .scaleSelect, bitcnt := 4#32 }

/-- The frame in its first granule, before the PUT: code 4, scale factor 3, sample 16. -/
def inLoop : State :=
  { (frameOf [] true).setEntry 0#5 { entry .mono 0#5 (channel 4#4 16#16 3#6) Chan.zero with gcnt := 1#4 } with
    fsm := .sampleLoop, seqPh := .put, guard := true, bitcnt := 15#32 }

/-- A machine whose Synth(A) is never answered. -/
def deaf : State := { State.reset with fa := Script.always .never }

/-- That machine waiting, with k host inputs to come. -/
def waiting (k : Nat) : State :=
  { State.reset with
    outstanding := some (.synth .a)
    inputs := List.replicate k { pins := Pins.quiet, seek := none, budget := none } }

/-- A machine whose next step does one transaction: ALLOC.ST 0 driven on the uop bus in fsm, and one step
later the signals `next`. -/
def piecewise (fsm : Fsm) (next : Pins) : State :=
  let p : Pins := { Pins.quiet with uop := some 0x2400#16 }
  { start 0#5 (SbEntry.created .st 0#5) (bitsOf 8 0x3F) with
    fsm := fsm
    inputs := [{ pins := p, seek := none, budget := some 0 }, { pins := next, seek := none, budget := some 0 }] }

/-- ALLOC.ST 0 between its two GetBits, in IDLE, with no step's grain left over. -/
def between : State :=
  { start 0#5 (SbEntry.created .st 0#5) (bitsOf 8 0x3F) with
    br := { bits := bitsOf 8 0x3F, cursor := 4, replies := Script.always .answers }
    inFlight := some { driven := some 0x2400#16, latched := [{ txn := .getBits 4, result := .value 3 }] }
    trace := [{ txn := .getBits 4, result := .value 3 }] }

/-- An empty pin set with one word offered on CMD. -/
def offering (w : Word) : State := { State.reset with pins := { Pins.quiet with cmd := some w } }

/-- The error state with one word offered on CMD. -/
def brokenOffering (w : Word) : State :=
  { hostOf [] true with
    fsm := .error, cause := .illegalCmd, errWord := 0xFFFF#16
    pins := { (hostOf [] true).pins with cmd := some w } }

theorem witness_DecodeEncodeRoundTrip :
    (Instr.putIs 31#5).wellFormed = true ∧ (Instr.putIs 31#5).port = .uopBus ∧
    (Instr.cfg true 2#2).wellFormed = true ∧ (Instr.cfg true 2#2).port = .cmd := by decide

theorem witness_DecodedWordIsItsEncoding :
    decodeWord 0x681F#16 = some (.putIs 31#5) ∧ decodeWord 0x8006#16 = some (.cfg true 2#2) := by decide

theorem witness_UopWordLegalIff : decodeUop 0x2020#16 = none := by decide

theorem witness_CommandWordVerdict : decodeCmd 0x8003#16 = none ∧ decodeCmd 0x9001#16 = none := by decide

theorem witness_SequencerStepRunsNamedUop :
    (inLoop.sampleInputs.pins.rst = false ∧ inLoop.outstanding = none ∧ inLoop.Mission) ∧
    inLoop.nextUop = some (.putMono 0#5) ∧ inLoop.inFlight = none ∧ inLoop.sampleInputs.budget = none ∧
    ({ inLoop with budget := some 0 } : State).sampleInputs.budget ≠ none ∧
    ({ inLoop with budget := some 0 } : State).Mission ∧
    ({ inLoop with inFlight := some { driven := none, latched := [] } } : State).Mission := by
  unfold State.Mission; decide +kernel

/-- R257, R240: with a grain of one transaction ALLOC.ST stands after its first GetBits, every register as
before it; RST then drops it, and the second GetBits is never issued. -/
theorem test_reset_between_transactions :
    let one := after (step (piecewise .idle { Pins.quiet with rst := true }))
    (one.map fun s => (s.bitcnt, s.entry 0#5, s.trace)) =
      some (0#32, SbEntry.created .st 0#5, [{ txn := .getBits 4, result := .value 3 }]) ∧
    (one.bind fun s => after (step s)).map (fun s => (s.inFlight, s.trace, s.br.cursor)) =
      some (none, [{ txn := .getBits 4, result := .value 3 }], 4) := by decide +kernel

/-- Taken up again it ends as the whole uop does (V-ALLOC-4). -/
theorem test_uop_taken_up_again :
    (after (step between)).map (fun s => ((s.entry 0#5).ch0.a, (s.entry 0#5).ch1.a, s.bitcnt, s.inFlight)) =
      some (3#4, 15#4, 8#32, none) := by decide +kernel

/-- R207: a driven word does not run in ERROR, and stays on the bus. -/
theorem test_error_runs_no_uop :
    (after (step (piecewise .error Pins.quiet))).map (fun s => (s.trace, s.fsm, s.pins.uop)) =
      some ([], .error, some 0x2400#16) := by decide +kernel

theorem witness_AcceptedCommandRuns :
    (offering 0x9000#16).sampleInputs.pins.rst = false ∧ (offering 0x9000#16).outstanding = none ∧
    (offering 0x9000#16).Mission ∧ (offering 0x9000#16).busy = false ∧
    (offering 0x9000#16).sampleInputs.pins.cmd = some 0x9000#16 ∧
    decodeCmd 0x9000#16 = some .decode := by unfold State.Mission; decide +kernel

theorem witness_DrivenUopWordRuns :
    let s := { State.reset with pins := { Pins.quiet with uop := some 0x7001#16 } }
    let e (c : Option Word) := { s with
      fsm := Fsm.error
      pins := { s.pins with cmd := c } }
    s.sampleInputs.pins.rst = false ∧ s.outstanding = none ∧ s.inFlight = none ∧
    s.sampleInputs.pins.uop = some 0x7001#16 ∧ decodeUop 0x7001#16 = some .synthB ∧
    s.fsm ≠ .error ∧ s.sampleInputs.budget = none ∧
    (e none).sampleInputs.pins.uop = some 0x7001#16 ∧ (e none).sampleInputs.pins.cmd = none ∧
    (e (some 0x9000#16)).sampleInputs.pins.cmd = some 0x9000#16 ∧
    (e (some 0x9000#16)).fsm = .error := by decide +kernel

theorem witness_PlacedWordRunsFirst :
    decodeTableWord 16 0x7001 = some .synthB ∧ decodeTableWord 16 0x9000 = some .decode := by decide

theorem witness_BusyIgnoresCommands :
    inLoop.busy = true ∧ inLoop.inputs = [] := by decide +kernel

theorem witness_WaitsWhenIdleOrOutstanding :
    (State.reset.sampleInputs.pins.rst = false ∧ State.reset.outstanding = none ∧ State.reset.Mission ∧
      State.reset.busy = false ∧ State.reset.sampleInputs.pins.cmd = none) ∧
    ((waiting 1).sampleInputs.pins.rst = false ∧ (waiting 1).outstanding ≠ none ∧
      (waiting 1).inputs.length ≤ 1) ∧
    ((waiting 2).sampleInputs.pins.rst = false ∧ (waiting 2).outstanding ≠ none ∧
      2 ≤ (waiting 2).inputs.length) := by unfold State.Mission; decide +kernel

theorem witness_RstGivesResetRegisters :
    ({ inLoop with pins := { Pins.quiet with rst := true } } : State).sampleInputs.pins.rst = true ∧
    ({ waiting 0 with pins := { Pins.quiet with rst := true } } : State).sampleInputs.pins.rst = true ∧
    (waiting 0).outstanding = some (.synth .a) ∧
    ({ between with pins := { Pins.quiet with rst := true } } : State).outstanding = none := by decide +kernel

theorem witness_RomsHoldTheirFormulas :
    1 ≤ (1#4).toNat ∧ (14#4).toNat ≤ 14 ∧ (62#6 : BitVec 6) ≠ 63#6 ∧
    FiniteF32 (scfRom 62#6) := by unfold FiniteF32; decide +kernel

/-- An entry whose stream holds 4 bits, 3 bits, or 4 bits with a failing CRC. -/
theorem witness_AllocOneCode :
    let s (n : Nat) := start 0#5 (SbEntry.created .mono 0#5) (bitsOf n 0)
    let c := { s 4 with crcPresent := true }
    ¬ State.reset.Names 0#5 .mono ∧ (s 4).Names 0#5 .mono ∧
    (start 0#5 (SbEntry.created .is 0#5) []).Names 0#5 .is ∧
    (s 4).br.replies.next = .answers ∧ (s 3).br.has 4 = false ∧ (s 4).br.has 4 = true ∧
    (s 4).crcPresent = false ∧ c.crcPresent = true ∧ c.crc.next = .ok ∧
    ({ c with crc := failing } : State).crc.next = .err := by unfold State.Names; decide +kernel

theorem witness_AllocStTwoCodes :
    let s (n : Nat) := start 0#5 (SbEntry.created .st 0#5) (bitsOf n 0)
    let second : Script Reply := { queue := [.ok, .err], rest := .ok }
    ¬ State.reset.Names 0#5 .st ∧ (s 8).Names 0#5 .st ∧ (s 3).br.has 4 = false ∧
    (s 7).br.has 4 = true ∧ ((s 7).tookBits 4).br.replies.next = .answers ∧
    ((s 7).tookBits 4).br.has 4 = false ∧ ((s 8).tookBits 4).br.has 4 = true ∧
    second.next = .ok ∧ second.advance.next = .err ∧ failing.next = .err := by
  unfold State.Names; decide +kernel

theorem witness_ScfsiDoesNothing :
    (start 0#5 (SbEntry.created .mono 0#5) []).Names 0#5 .mono ∧
    (start 0#5 (SbEntry.created .st 0#5) []).Names 0#5 .st ∧
    (start 31#5 (SbEntry.created .is 31#5) []).Names 31#5 .is ∧
    ¬ State.reset.Names 0#5 .mono ∧ ¬ State.reset.Names 0#5 .st ∧ ¬ State.reset.Names 0#5 .is := by
  unfold State.Names; decide +kernel

theorem witness_ScfMonoReadsGated :
    let s (a : BitVec 4) (n : Nat) := start 0#5 (entry .mono 0#5 (channel a 0#16 0#6) Chan.zero) (bitsOf n 63)
    (s 0#4 0).Names 0#5 .mono ∧ ((s 0#4 0).entry 0#5).ch0.a = 0#4 ∧
    ((s 15#4 5).entry 0#5).ch0.a ≠ 0#4 ∧ (s 15#4 5).br.replies.next = .answers ∧
    (s 15#4 5).br.has 6 = false ∧ (s 15#4 6).br.has 6 = true ∧ (s 15#4 6).Names 0#5 .mono := by
  unfold State.Names; decide +kernel

theorem witness_ScfStGatesEachChannel :
    let s (a b : BitVec 4) (n : Nat) :=
      start 0#5 (entry .st 0#5 (channel a 0#16 0#6) (channel b 0#16 0#6)) (bitsOf n 0)
    (s 0#4 0#4 0).Names 0#5 .st ∧ ((s 0#4 0#4 0).entry 0#5).ch1.a = 0#4 ∧
    (s 1#4 0#4 6).Names 0#5 .st ∧ ((s 1#4 0#4 6).entry 0#5).ch0.a ≠ 0#4 ∧
    ((s 0#4 1#4 6).entry 0#5).ch1.a ≠ 0#4 ∧ (s 0#4 1#4 5).br.has 6 = false ∧
    (s 1#4 1#4 11).br.has 6 = true ∧ ((s 1#4 1#4 11).tookBits 6).br.replies.next = .answers ∧
    ((s 1#4 1#4 11).tookBits 6).br.has 6 = false ∧ ((s 1#4 1#4 12).tookBits 6).br.has 6 = true := by
  unfold State.Names; decide +kernel

theorem witness_ScfIsSharedGate :
    let s (a : BitVec 4) (n : Nat) := start 1#5 (entry .is 1#5 (channel a 0#16 0#6) Chan.zero) (bitsOf n 0)
    (s 0#4 0).Names 1#5 .is ∧ ((s 0#4 0).entry 1#5).ch0.a = 0#4 ∧ ((s 1#4 5).entry 1#5).ch0.a ≠ 0#4 ∧
    (s 1#4 5).br.has 6 = false ∧ (s 1#4 11).br.has 6 = true ∧
    ((s 1#4 11).tookBits 6).br.replies.next = .answers ∧
    ((s 1#4 11).tookBits 6).br.has 6 = false ∧ ((s 1#4 12).tookBits 6).br.has 6 = true := by
  unfold State.Names; decide +kernel

theorem witness_SampleOneChannel :
    let s (v : Variant) (a : BitVec 4) (n : Nat) :=
      start 1#5 (entry v 1#5 (channel a 0#16 0#6) Chan.zero) (bitsOf n 0)
    (s .mono 0#4 0).Names 1#5 .mono ∧ (s .is 15#4 15).Names 1#5 .is ∧
    ((s .mono 0#4 0).entry 1#5).ch0.a = 0#4 ∧ ((s .is 15#4 15).entry 1#5).ch0.a ≠ 0#4 ∧
    (s .is 15#4 15).br.has ((s .is 15#4 15).entry 1#5).ch0.w.toNat = false ∧
    (s .mono 15#4 16).br.has ((s .mono 15#4 16).entry 1#5).ch0.w.toNat = true := by
  unfold State.Names; decide +kernel

theorem witness_SampleStTwoChannels :
    let s (a b : BitVec 4) (n : Nat) :=
      start 0#5 (entry .st 0#5 (channel a 0#16 0#6) (channel b 0#16 0#6)) (bitsOf n 0)
    (s 0#4 0#4 0).Names 0#5 .st ∧ ((s 0#4 0#4 0).entry 0#5).ch0.a = 0#4 ∧
    ((s 0#4 0#4 0).entry 0#5).ch1.a = 0#4 ∧
    ((s 1#4 0#4 1).entry 0#5).ch0.a ≠ 0#4 ∧ (s 1#4 0#4 1).br.has 2 = false ∧
    ((s 1#4 0#4 1).entry 0#5).ch0.w.toNat = 2 ∧ (s 1#4 0#4 2).br.has 2 = true ∧
    ((s 0#4 1#4 1).entry 0#5).ch1.w.toNat = 2 ∧ (s 0#4 1#4 1).br.has 2 = false ∧
    ((s 1#4 1#4 3).tookBits 2).br.replies.next = .answers ∧
    ((s 1#4 1#4 3).tookBits 2).br.has 2 = false ∧ ((s 1#4 1#4 4).tookBits 2).br.has 2 = true := by
  unfold State.Names; decide +kernel

theorem witness_GranuleCounterWrapsAtTwelve : (State.reset.entry 0#5).gcnt = 0#4 := by decide +kernel

theorem witness_PutMonoInjects :
    let s := start 0#5 (entry .mono 0#5 (channel 4#4 16#16 3#6) Chan.zero) []
    ¬ State.reset.Names 0#5 .mono ∧ s.Names 0#5 .mono ∧ s.sel ≠ .rightOnly ∧ s.fa.next = .ok ∧
    ({ s with sel := .rightOnly } : State).sel = .rightOnly ∧
    ({ s with fa := failing } : State).fa.next = .err ∧
    ({ s with fa := Script.always .never } : State).fa.next = .never := by unfold State.Names; decide +kernel

theorem witness_PutStRoutes :
    let s := start 0#5 (entry .st 0#5 (channel 1#4 3#16 3#6) (channel 2#4 0#16 0#6)) []
    ¬ State.reset.Names 0#5 .st ∧ s.Names 0#5 .st ∧ s.sel = .both ∧ s.fa.next = .ok ∧ s.fb.next = .ok ∧
    ({ s with sel := .leftOnly } : State).Names 0#5 .st ∧
    ({ s with sel := .rightOnly } : State).Names 0#5 .st ∧
    ({ s with fa := failing } : State).fa.next = .err ∧
    ({ s with fb := failing } : State).fb.next = .err := by unfold State.Names; decide +kernel

theorem witness_PutIsSteers :
    let s := start 0#5 (entry .is 0#5 (channel 1#4 3#16 3#6) (Chan.zero.scaled 6#6)) []
    ¬ State.reset.Names 0#5 .is ∧ s.Names 0#5 .is ∧ s.sel = .both ∧ s.fa.next = .ok ∧ s.fb.next = .ok ∧
    ({ s with sel := .leftOnly } : State).Names 0#5 .is ∧
    ({ s with sel := .rightOnly } : State).Names 0#5 .is ∧
    ({ s with fa := failing } : State).fa.next = .err ∧
    ({ s with fb := failing } : State).fb.next = .err := by unfold State.Names; decide +kernel

theorem witness_ZeroCodeInjectsZero :
    let s (v : Variant) := start 0#5 (SbEntry.created v 0#5) []
    (s .mono).fa.next = .ok ∧ (s .mono).fb.next = .ok ∧ (s .mono).Names 0#5 .mono ∧
    (s .st).Names 0#5 .st ∧ (s .is).Names 0#5 .is ∧ ((s .st).entry 0#5).ch0 = Chan.zero ∧
    ((s .st).entry 0#5).ch1 = Chan.zero := by unfold State.Names; decide +kernel

theorem witness_TolerantCodesYieldZero :
    (14#4 : BitVec 4) ≠ 0#4 ∧ (32767#16).toNat < 2 ^ ((14#4).toNat + 1) := by decide

theorem witness_DequantizedValuesAreOrdinary :
    (15#4 : BitVec 4) ≠ 0#4 ∧ (65535#16).toNat < 2 ^ ((15#4).toNat + 1) := by decide

theorem witness_IntensityRatioExact :
    (1#4 : BitVec 4) ≠ 0#4 ∧ (3#16).toNat < 2 ^ ((1#4).toNat + 1) ∧ (62#6 : BitVec 6) ≠ 63#6 ∧
    (2#6 : BitVec 6) ≠ 63#6 ∧ (62#6).toNat % 3 = (2#6).toNat % 3 := by decide

theorem witness_SynthTriggersFilter :
    State.reset.fa.next = .ok ∧ State.reset.fb.next = .ok ∧
    ({ State.reset with fa := failing, fb := failing } : State).fa.next = .err ∧
    ({ State.reset with fa := failing, fb := failing } : State).fb.next = .err ∧
    deaf.fa.next = .never := by decide +kernel

/-- Patterns that round: 1.0 + 2^-23 squared, and 2^24 + 1. -/
theorem witness_ProductRoundsToNearestEven :
    FiniteF32 0x3F800001#32 ∧ FiniteF32 (fmul32 0x3F800001#32 0x3F800001#32) := by
  unfold FiniteF32; decide +kernel

theorem witness_SumRoundsToNearestEven :
    FiniteF32 0x4B800000#32 ∧ FiniteF32 0x3F800000#32 ∧
    FiniteF32 (fadd32 0x4B800000#32 0x3F800000#32) := by unfold FiniteF32; decide +kernel

theorem witness_ZeroSignsAndExactIntegers :
    FiniteF32 0x80000000#32 ∧ isZero 0x80000000#32 = true ∧ FiniteF32 0x3F800000#32 ∧
    isZero 0x3F800000#32 = false := by unfold FiniteF32; decide +kernel

theorem witness_GetBitsIsMsbFirst :
    let r (n : Nat) : BitReader := { bits := bitsOf n 1, cursor := 0, replies := Script.always .answers }
    ({ r 16 with replies := Script.always .never } : BitReader).replies.next = .never ∧
    15 < 2 ^ 4 ∧ (r 16).replies.next = .answers ∧ (r 16).cursor + 16 ≤ (r 16).bits.length ∧
    (r 0).bits.length < (r 0).cursor + 1 := by decide +kernel

theorem witness_CfgConfigures :
    (0x8003#16).extractLsb' 12 4 = 8#4 ∧ (0x8003#16).extractLsb' 0 2 = 3#2 ∧
    (0x8008#16).extractLsb' 12 4 = 8#4 ∧ (0x8008#16).extractLsb' 3 9 ≠ 0#9 := by decide

theorem witness_DecodeStartsFrame :
    State.reset.created = false ∧ (hostOf [] true).created = true ∧
    frameValid .mono 1#6 0#6 = true ∧ frameValid .jointStereo 32#6 32#6 = true ∧
    frameValid .jointStereo 32#6 33#6 = false ∧ frameValid .mono 0#6 0#6 = false ∧
    frameValid .mono 33#6 0#6 = false := by decide +kernel

theorem witness_OperationsRaiseTheirCauses :
    ∃ t, exec (.putMono 0#5) State.reset = .next t ∧ State.reset.fsm ≠ .error ∧ t.fsm = .error :=
  ⟨_, rfl, by decide +kernel⟩

theorem witness_UopFaultRecordsAndKeeps :
    (Instr.putMono 0#5).port = .uopBus ∧
    (∃ t, exec (.putMono 0#5) State.reset = .next t ∧ State.reset.fsm ≠ .error ∧ t.fsm = .error) ∧
    let s := start 0#5 { entry .st 0#5 (channel 2#4 0#16 0#6) (channel 2#4 0#16 0#6) with gcnt := 11#4 }
      (bitsOf 3 3)
    ∃ t, exec (.sampleSt 0#5) s = .next t ∧ s.fsm ≠ .error ∧ t.fsm = .error ∧ (s.entry 0#5).gcnt = 11#4 :=
  ⟨rfl, ⟨_, rfl, by decide +kernel⟩, _, rfl, by decide +kernel⟩

theorem witness_ErrorLeftOnlyByCommandOrReset :
    (∃ t, step (brokenOffering 0x8004#16) = .next t ∧ t.fsm ≠ .error) ∧
    (∃ t, step (brokenOffering 0x9000#16) = .next t ∧ t.fsm ≠ .error) ∧
    (∃ t, step { brokenOffering 0#16 with pins := { Pins.quiet with rst := true } } = .next t ∧
      t.fsm ≠ .error) ∧
    (brokenOffering 0x8004#16).fsm = .error :=
  ⟨⟨_, rfl, by decide +kernel⟩, ⟨_, rfl, by decide +kernel⟩, ⟨_, rfl, by decide +kernel⟩, rfl⟩

theorem witness_UncompletedTransactionRaisesNoFault :
    (∃ t, exec .synthA deaf = .next t ∧ deaf.outstanding = none ∧ t.outstanding ≠ none) ∧
    let s := start 0#5 (SbEntry.created .st 0#5) (bitsOf 8 0x3F)
    (Instr.allocSt 0#5).port = .uopBus ∧ s.inFlight = none ∧ s.outstanding = none ∧
    (∃ m, { s with budget := some 0 }.partUop none (.allocSt 0#5) = m ∧ m.inFlight ≠ none ∧
      m.trace.length = 1) ∧
    (∃ f, ({ s with budget := some 0 }.partUop none (.allocSt 0#5)).inFlight = some f ∧ f.latched.length = 1) ∧
    let c := { between with
      budget := some 1
      crcPresent := true }
    ∃ f, (c.partUop (some 0x2400#16) (.allocSt 0#5)).inFlight = some f ∧ f.latched.length = 3 :=
  ⟨⟨_, rfl, by decide +kernel⟩, rfl, rfl, rfl, ⟨_, rfl, by decide +kernel⟩, ⟨_, rfl, by decide +kernel⟩,
    _, rfl, by decide +kernel⟩

/-- R258: under a standing grain of one transaction a step a frame goes on, from its CREATE_SB to the muted
frame's DONE. -/
theorem test_smallest_grain_ends :
    (after (Sys2Proof.core.run 3 { frameOf (bitsOf 4 0) false with budget := some 0 })).map (·.fsm) =
      some .done := by decide +kernel

theorem witness_HostRegisterFields : State.reset.pins.rst = false ∧ State.reset.outstanding = none := by
  decide +kernel

theorem witness_GuardEvalByMode :
    State.reset.params.guardMode = .permissive ∧
    ({ State.reset with params := { Params.default with guardMode := .strict } } : State).params.guardMode =
      .strict := by decide +kernel

theorem witness_GuardDecidesTheFrame :
    ((atGuard true).inputs = [] ∧ (atGuard true).pins.rst = false ∧ (atGuard true).pins.uop = none ∧
      (atGuard true).outstanding = none ∧ (atGuard true).inFlight = none ∧ (atGuard true).fsm = .scaleSelect ∧
      (atGuard true).n.toNat = (atGuard true).seqI.toNat + 1 ∧
      (atGuard true).Names (atGuard true).seqI (atGuard true).seqVar) ∧
    (atGuard true).guardEval = true ∧ (atGuard false).guardEval = false := by
  unfold State.Names; decide +kernel

theorem witness_SynthBFollowsSynthA :
    inLoop.fsm = .sampleLoop ∧ inLoop.seqPh = .put ∧ inLoop.n.toNat = inLoop.seqI.toNat + 1 ∧
    ({ inLoop with seqPh := .synA } : State).seqPh = .synA := by decide +kernel

theorem witness_VariantPolicy :
    let s (m : ChMode) : State := { State.reset with fsm := .init, mode := m, n := 32#6, b := 31#6, seqI := 31#5 }
    (s .mono).fsm = .init ∧ (s .jointStereo).b.toNat ≤ (31#5).toNat ∧ (30#5).toNat < (s .jointStereo).b.toNat ∧
    (s .dualChannel).mode = .dualChannel := by decide +kernel

theorem witness_EveryStepKeepsIdxAndParams :
    State.reset.IdxConstant ∧ ∃ t, step (offering 0x8004#16) = .next t ∧ t.created = true :=
  ⟨by unfold State.IdxConstant; decide +kernel, _, rfl, by decide +kernel⟩

/-- A frame in progress that meets the frame invariant. -/
theorem inLoop_frameRegs : inLoop.FrameRegs := by
  constructor <;>
    (try unfold State.OwnEntry SbEntry.FieldsOf Chan.Allocated Chan.Scaled) <;>
    (try unfold State.BeforeAlloc) <;> decide +kernel

theorem inLoop_bitsAccounted : inLoop.BitsAccounted := by
  unfold State.BitsAccounted; decide +kernel

theorem witness_EveryStepKeepsFrameInv :
    inLoop.FrameInv ∧ inLoop.busy = true ∧ inLoop.outstanding = none ∧ inLoop.Mission ∧
    ∃ t, step inLoop = .next t ∧ t.fsm = .sampleLoop :=
  ⟨fun _ _ => inLoop_frameRegs, by decide +kernel, by decide +kernel, rfl, _, rfl, by decide +kernel⟩

theorem witness_EveryStepKeepsBitAccounting :
    inLoop.FrameInv ∧ inLoop.BitsAccounted ∧ inLoop.Mission ∧ ∃ t, step inLoop = .next t ∧ t.bitcnt = 15#32 :=
  ⟨fun _ _ => inLoop_frameRegs, inLoop_bitsAccounted, rfl, _, rfl, by decide +kernel⟩

theorem witness_SequencerIssuesOnlyLegalUops :
    inLoop.FrameInv ∧ inLoop.busy = true ∧ inLoop.outstanding = none ∧ inLoop.Mission ∧
    inLoop.sampleInputs.pins.rst = false ∧ ∃ t, step inLoop = .next t ∧ t.wready = true :=
  ⟨fun _ _ => inLoop_frameRegs, by decide +kernel, by decide +kernel, rfl, by decide +kernel, _, rfl,
    by decide +kernel⟩

theorem witness_SampleLoopWritesOnlyRawAndGcnt :
    inLoop.fsm = .sampleLoop ∧ inLoop.Mission ∧ inLoop.sampleInputs.pins.rst = false ∧
    ∃ t, step inLoop = .next t ∧ t.fsm ≠ .error :=
  ⟨by decide +kernel, rfl, by decide +kernel, _, rfl, by decide +kernel⟩

theorem witness_UopTouchesOnlyItsEntry :
    (Instr.createSbSt 3#5).port = .uopBus ∧ subbandOf (.createSbSt 3#5) ≠ some 4#5 ∧
    ∃ t, exec (.createSbSt 3#5) State.reset = .next t ∧ State.reset.fsm ≠ .error ∧ t.fsm ≠ .error :=
  ⟨rfl, by decide, _, rfl, by decide +kernel⟩

theorem witness_HeaderChangeHasNoEffect :
    inLoop.busy = true ∧ inLoop.inputs = [] ∧
    ¬ (inLoop.fsm = .scaleSelect ∧ inLoop.atLastSubband = true) ∧
    (atGuard true).busy = true := by decide +kernel

/-- The first uop of a full frame, and the last of a muted one. -/
theorem witness_FrameFollowsTheSchedule :
    (hostOf (bitsOf 4 0) false).HostSilent ∧ (hostOf (bitsOf 4 0) false).outstanding = none ∧
    (hostOf (bitsOf 4 0) false).inFlight = none ∧
    frameValid .mono 1#6 0#6 = true ∧ (hostOf (bitsOf 4 0) false).guardEval = false ∧
    (frameSchedule .mono 0#6 1 false false).length = 3 ∧ (hostOf [] true).guardEval = true ∧
    (∃ t, Sys2Proof.core.run 1 (hostOf [] true).startFrame = .next t ∧ t.fsm = .allocate) ∧
    (after (Sys2Proof.core.run 3 (hostOf (bitsOf 4 0) false).startFrame)).map (·.fsm) = some .done :=
  ⟨by unfold State.HostSilent; decide +kernel, by decide +kernel, by decide +kernel, by decide, by decide +kernel,
    by decide +kernel, by decide +kernel, ⟨_, rfl, by decide +kernel⟩, by decide +kernel⟩

theorem witness_FrameEndsWithin920Uops :
    (hostOf [] true).HostSilent ∧ (hostOf [] true).outstanding = none ∧ (hostOf [] true).inFlight = none ∧
    frameValid (hostOf [] true).pins.hdr.mode (hostOf [] true).pins.hdr.n (hostOf [] true).pins.hdr.b = true ∧
    (hostOf [] true).br.replies.Answers ∧ (hostOf [] true).crc.Completes ∧
    (hostOf [] true).fa.Completes ∧ (hostOf [] true).fb.Completes := by
  unfold State.HostSilent Script.Answers Script.Completes; decide +kernel

end Sys2Proof.Tests
end

section
/-! PROOFS. Rounding to binary32 (spec/00_scope.md R9). A finite pattern is an integer over 2^298, so "nearest"
is compared over the integers: `roundF32` keeps the multiple of its last place 2^q that lies within half of it,
and every finite pattern is a multiple of 2^q or smaller than what has 24 bits above it. -/

namespace Sys2Proof.Proofs
open Sys2Proof Sys2Proof.Machine

/-! ## The fields of a pattern, as arithmetic -/

theorem expOf_eq (x : F32) : expOf x = x.toNat / 2 ^ 23 % 2 ^ 8 := by
  simp [expOf, BitVec.extractLsb'_toNat, Nat.shiftRight_eq_div_pow]

theorem fracOf_eq (x : F32) : fracOf x = x.toNat % 2 ^ 23 := by
  simp [fracOf, BitVec.extractLsb'_toNat]

theorem signOf_eq (x : F32) : signOf x = decide (2 ^ 31 ≤ x.toNat) :=
  BitVec.msb_eq_decide x

theorem significand_lt (x : F32) : significand x < 2 ^ 24 := by
  have hfrac := fracOf_eq x
  unfold significand
  split <;> omega

theorem significand_of_isZero {x : F32} (h : isZero x = true) : significand x = 0 := by
  simp_all [isZero, significand]

theorem isNaN_of_finite {x : F32} (h : FiniteF32 x) : isNaN x = false := by
  simp [isNaN, show expOf x ≠ 255 from h]

theorem isInf_of_finite {x : F32} (h : FiniteF32 x) : isInf x = false := by
  simp [isInf, show expOf x ≠ 255 from h]

theorem not_finiteF32_infF32 (neg : Bool) : ¬ FiniteF32 (infF32 neg) := by
  unfold FiniteF32
  cases neg <;> decide

/-! ## A finite value as an integer over 2^298 -/

/-- The integer of magnitude `n` with a sign bit. -/
def signed (neg : Bool) (n : Nat) : ℤ := if neg then -n else n

theorem signed_not (neg : Bool) (n : Nat) : signed (!neg) n = -signed neg n := by
  cases neg <;> simp [signed]

theorem signed_add (neg : Bool) (m n : Nat) : signed neg (m + n) = signed neg m + signed neg n := by
  cases neg <;> simp [signed, add_comm]

theorem signed_sub (neg : Bool) {m n : Nat} (h : n ≤ m) :
    signed neg (m - n) = signed neg m - signed neg n := by
  cases neg <;> simp [signed, h, ← sub_eq_neg_add]

theorem signed_mul_two_pow (neg : Bool) (n k : Nat) : signed neg (n * 2 ^ k) = signed neg n * 2 ^ k := by
  cases neg <;> simp [signed]

theorem signed_mul (a b : Bool) (m n : Nat) : signed a m * signed b n = signed (a != b) (m * n) := by
  cases a <;> cases b <;> simp [signed]

/-- A finite value, counted in units of 2^-298 as `roundF32` counts. -/
def units (x : F32) : ℤ := signed (signOf x) (significand x * 2 ^ (scale x + 149))

/-- `v` units of 2^-298. -/
def ofUnits (v : ℤ) : ℚ := v / (2 ^ 149 * 2 ^ 149)

theorem valueF32_eq (x : F32) :
    valueF32 x = (signed (signOf x) (significand x * 2 ^ scale x) : ℚ) / 2 ^ 149 := by
  rw [valueF32, signed]
  split <;> push_cast <;> ring

theorem valueF32_eq_ofUnits (x : F32) : valueF32 x = ofUnits (units x) := by
  rw [valueF32_eq, ofUnits, units, pow_add, ← mul_assoc, signed_mul_two_pow _ _ 149, Int.cast_mul,
    Int.cast_pow, Int.cast_ofNat, mul_div_mul_right _ _ (by positivity)]

theorem ofUnits_add (v w : ℤ) : ofUnits (v + w) = ofUnits v + ofUnits w := by
  simp only [ofUnits, Int.cast_add, add_div]

theorem ofUnits_injective : Function.Injective ofUnits := fun v w h =>
  Int.cast_injective ((div_left_inj' (by positivity)).mp h)

theorem ofUnits_mul_two_pow (k : Nat) : ofUnits (k * 2 ^ 298 : Nat) = k := by
  rw [ofUnits, show 298 = 149 + 149 from rfl, pow_add, Int.cast_natCast, Nat.cast_mul, Nat.cast_mul,
    Nat.cast_pow, Nat.cast_ofNat, mul_div_cancel_right₀ _ (by positivity)]

theorem abs_ofUnits_sub (v w : ℤ) : |ofUnits v - ofUnits w| = ofUnits |v - w| := by
  rw [ofUnits, ofUnits, ← sub_div, abs_div, abs_of_pos (by positivity : (0 : ℚ) < 2 ^ 149 * 2 ^ 149),
    ofUnits, Int.cast_abs, Int.cast_sub]

/-- Over the integers, `z` is no nearer to `v` than `r` is, and `n` is even where it is as near. -/
def NoNearer (r z v : ℤ) (n : Nat) : Prop :=
  |r - v| ≤ |z - v| ∧ (|r - v| = |z - v| → z ≠ r → n % 2 = 0)

theorem NoNearer.neg {r z v : ℤ} {n : Nat} (h : NoNearer r z v n) : NoNearer (-r) (-z) (-v) n := by
  have hdist (a : ℤ) : |-a - -v| = |a - v| := by rw [neg_sub_neg, abs_sub_comm]
  simpa only [NoNearer, hdist, ne_eq, neg_inj] using h

/-- Comparing the distances over the integers is enough. -/
theorem nearestEven_of_noNearer {r : F32} {v : ℤ}
    (h : ∀ z, FiniteF32 z → NoNearer (units r) (units z) v (significand r)) :
    NearestEven r (ofUnits v) := by
  intro z hz
  obtain ⟨hle, htie⟩ := h z hz
  simp only [valueF32_eq_ofUnits, abs_ofUnits_sub]
  refine ⟨?_, fun heq hne => htie (ofUnits_injective heq) fun hu => hne (congrArg ofUnits hu)⟩
  unfold ofUnits
  gcongr

/-! ## Cutting to a last place -/

/-- The last place of the significand that `roundF32` keeps of `m × 2^y`. -/
def lastPlace (m y : Nat) : Nat := max (y + m.log2 - 23) 149

/-- The multiple of `2^lastPlace` that `roundF32` keeps. -/
def kept (m y : Nat) : Nat :=
  if lastPlace m y ≤ y then m * 2 ^ (y - lastPlace m y) else rneShift m (lastPlace m y - y)

@[simp] theorem roundF32_zero (neg : Bool) (y : Nat) : roundF32 neg 0 y = zeroF32 neg := if_pos rfl

theorem roundF32_of_ne_zero (neg : Bool) {m : Nat} (y : Nat) (hm : m ≠ 0) :
    roundF32 neg m y =
      if 0x7F800000 ≤ (lastPlace m y - 149) * 2 ^ 23 + kept m y then infF32 neg
      else BitVec.ofNat 32 ((lastPlace m y - 149) * 2 ^ 23 + kept m y + if neg then 2 ^ 31 else 0) :=
  if_neg hm

/-- `r` times the place `d` is within half a place of `v`, and even where it is half a place away. -/
def HalfEven (r : Nat) (d v : ℤ) : Prop :=
  2 * |r * d - v| ≤ d ∧ (2 * |r * d - v| = d → r % 2 = 0)

theorem halfEven_rneShift (m k : Nat) : HalfEven (rneShift m k) (2 ^ k) m := by
  have hdiv : (2 : ℤ) ^ k * (m / 2 ^ k : Nat) + (m % 2 ^ k : Nat) = m := by
    exact_mod_cast Nat.div_add_mod m (2 ^ k)
  have hrem : ((m % 2 ^ k : Nat) : ℤ) < 2 ^ k := by exact_mod_cast Nat.mod_lt m (Nat.two_pow_pos k)
  have hup : (2 ^ k < 2 * (m % 2 ^ k) ↔ (2 : ℤ) ^ k < 2 * (m % 2 ^ k : Nat)) ∧
      (2 * (m % 2 ^ k) = 2 ^ k ↔ 2 * ((m % 2 ^ k : Nat) : ℤ) = 2 ^ k) := by
    constructor <;> norm_cast
  simp only [HalfEven, rneShift, hup]
  generalize m / 2 ^ k = q at *
  generalize m % 2 ^ k = r at *
  generalize (2 : ℤ) ^ k = d at *
  split
  · have herror : ((q + 1 : Nat) : ℤ) * d - m = d - r := by push_cast; linarith
    rw [herror, abs_of_nonneg (by omega)]
    omega
  · have herror : (q : ℤ) * d - m = -r := by linarith
    rw [herror, abs_neg, abs_of_nonneg (by omega)]
    omega

theorem HalfEven.mul {r : Nat} {d v c : ℤ} (h : HalfEven r d v) (hc : 0 < c) :
    HalfEven r (d * c) (v * c) := by
  have hscale : 2 * |r * (d * c) - v * c| = 2 * |r * d - v| * c := by
    rw [← mul_assoc, ← sub_mul, abs_mul, abs_of_pos hc, mul_assoc]
  obtain ⟨hle, htie⟩ := h
  unfold HalfEven
  rw [hscale]
  exact ⟨by gcongr, fun heq => htie (mul_right_cancel₀ hc.ne' heq)⟩

theorem halfEven_kept (m y : Nat) : HalfEven (kept m y) (2 ^ lastPlace m y) (m * 2 ^ y) := by
  unfold kept
  split
  case isTrue hle =>
    have hexact : ((m * 2 ^ (y - lastPlace m y) : Nat) : ℤ) * 2 ^ lastPlace m y = m * 2 ^ y := by
      push_cast
      rw [mul_assoc, ← pow_add, Nat.sub_add_cancel hle]
    have hpos : (0 : ℤ) < 2 ^ lastPlace m y := by positivity
    rw [HalfEven, hexact]
    simp [hpos.le, hpos.ne]
  case isFalse hlt =>
    have h := (halfEven_rneShift m (lastPlace m y - y)).mul (c := 2 ^ y) (by positivity)
    rwa [← pow_add, Nat.sub_add_cancel (by omega)] at h

/-- Within half a place, no other multiple of the place is nearer. -/
theorem HalfEven.noNearer {r : Nat} {d v : ℤ} (h : HalfEven r d v) (hd : 0 < d) (n : ℤ) :
    NoNearer (r * d) (n * d) v r := by
  obtain ⟨hle, htie⟩ := h
  by_cases hn : n = r
  · simp [NoNearer, hn]
  have hapart : d ≤ |n * d - v| + |r * d - v| := by
    calc d = 1 * d := (one_mul d).symm
      _ ≤ |n - r| * d := by gcongr; exact Int.one_le_abs (sub_ne_zero.mpr hn)
      _ = |(n * d - v) - (r * d - v)| := by
        rw [← abs_of_pos hd, ← abs_mul, abs_of_pos hd]; ring_nf
      _ ≤ |n * d - v| + |r * d - v| := abs_sub _ _
  exact ⟨by linarith, fun heq _ => htie (by linarith)⟩

/-! ## How much is kept -/

theorem le_lastPlace (m y : Nat) : 149 ≤ lastPlace m y := le_max_right _ _

/-- Above the subnormals' last place the exact value has 24 bits at the last place. -/
theorem two_pow_le_of_lastPlace {m y : Nat} (hm : m ≠ 0) (hq : 149 < lastPlace m y) :
    2 ^ 23 * 2 ^ lastPlace m y ≤ m * 2 ^ y := by
  have hplace : 23 + lastPlace m y = m.log2 + y := by unfold lastPlace at *; omega
  rw [← pow_add, hplace, pow_add]
  gcongr
  exact Nat.log2_self_le hm

theorem lt_two_pow_lastPlace (m y : Nat) : m * 2 ^ y < 2 ^ 24 * 2 ^ lastPlace m y := by
  have hplace : m.log2 + 1 + y ≤ 24 + lastPlace m y := by unfold lastPlace; omega
  calc m * 2 ^ y < 2 ^ (m.log2 + 1) * 2 ^ y := by gcongr; exact Nat.lt_log2_self
    _ = 2 ^ (m.log2 + 1 + y) := (pow_add ..).symm
    _ ≤ 2 ^ (24 + lastPlace m y) := by gcongr; norm_num
    _ = 2 ^ 24 * 2 ^ lastPlace m y := pow_add ..

/-- A carry out of the significand reaches 2^24 and no further. -/
theorem kept_le (m y : Nat) : kept m y ≤ 2 ^ 24 := by
  obtain ⟨hle, -⟩ := halfEven_kept m y
  have hlt : (m * 2 ^ y : ℤ) < 2 ^ 24 * 2 ^ lastPlace m y := by exact_mod_cast lt_two_pow_lastPlace m y
  have hpos : (0 : ℤ) < 2 ^ lastPlace m y := by positivity
  have := le_abs_self (kept m y * 2 ^ lastPlace m y - m * 2 ^ y : ℤ)
  by_contra! hgt
  have hnext : (2 ^ 24 + 1 : ℤ) * 2 ^ lastPlace m y ≤ kept m y * 2 ^ lastPlace m y := by
    gcongr
    exact_mod_cast hgt
  linarith

theorem le_kept {m y : Nat} (hm : m ≠ 0) (hq : 149 < lastPlace m y) : 2 ^ 23 ≤ kept m y := by
  obtain ⟨hle, -⟩ := halfEven_kept m y
  have hge : (2 ^ 23 * 2 ^ lastPlace m y : ℤ) ≤ m * 2 ^ y := by
    exact_mod_cast two_pow_le_of_lastPlace hm hq
  have hpos : (0 : ℤ) < 2 ^ lastPlace m y := by positivity
  have := neg_abs_le (kept m y * 2 ^ lastPlace m y - m * 2 ^ y : ℤ)
  by_contra! hlt
  have hnext : ((kept m y : ℤ) + 1) * 2 ^ lastPlace m y ≤ 2 ^ 23 * 2 ^ lastPlace m y := by
    gcongr
    exact_mod_cast hlt
  linarith

/-! ## The pattern packed -/

theorem fields_ofNat (neg : Bool) {p : Nat} (hp : p < 0x7F800000) :
    let x := BitVec.ofNat 32 (p + if neg then 2 ^ 31 else 0)
    signOf x = neg ∧ expOf x = p / 2 ^ 23 ∧ fracOf x = p % 2 ^ 23 := by
  intro x
  have hx : x.toNat = p + if neg then 2 ^ 31 else 0 := by
    rw [BitVec.toNat_ofNat]
    split <;> omega
  rw [signOf_eq, expOf_eq, fracOf_eq, hx]
  cases neg <;> simp <;> omega

/-- Read back, a packed pattern has the significand and exponent packed, but for a carry. -/
theorem packed_significand {x : F32} {q n : Nat} (hq : 149 ≤ q) (hle : n ≤ 2 ^ 24)
    (hge : 149 < q → 2 ^ 23 ≤ n) (hexp : expOf x = ((q - 149) * 2 ^ 23 + n) / 2 ^ 23)
    (hfrac : fracOf x = ((q - 149) * 2 ^ 23 + n) % 2 ^ 23) :
    significand x * 2 ^ (scale x + 149) = n * 2 ^ q ∧ significand x % 2 = n % 2 := by
  obtain hfits | hcarry := Nat.lt_or_eq_of_le hle
  · have hsig : significand x = n := by unfold significand; split <;> omega
    have hscale : scale x + 149 = q := by unfold scale; split <;> omega
    rw [hsig, hscale]
    exact ⟨rfl, rfl⟩
  · have hsig : significand x = 2 ^ 23 := by unfold significand; split <;> omega
    have hscale : scale x + 149 = 1 + q := by unfold scale; split <;> omega
    rw [hsig, hscale, hcarry, ← pow_add, ← pow_add]
    exact ⟨by ring_nf, rfl⟩

/-- A rounded value that is not an infinity is the kept multiple of its last place. -/
theorem roundF32_of_lt (neg : Bool) {m y : Nat} (hm : m ≠ 0)
    (hp : (lastPlace m y - 149) * 2 ^ 23 + kept m y < 0x7F800000) :
    FiniteF32 (roundF32 neg m y) ∧
    units (roundF32 neg m y) = signed neg (kept m y * 2 ^ lastPlace m y) ∧
    significand (roundF32 neg m y) % 2 = kept m y % 2 := by
  obtain ⟨hsign, hexp, hfrac⟩ := fields_ofNat neg hp
  obtain ⟨hsig, hpar⟩ := packed_significand (le_lastPlace m y) (kept_le m y) (le_kept hm) hexp hfrac
  rw [roundF32_of_ne_zero neg y hm, if_neg (by omega), units, hsign, hsig, FiniteF32, hexp]
  exact ⟨by omega, rfl, hpar⟩

theorem roundF32_finite {neg : Bool} {m y : Nat} (hm : m ≠ 0) (hfin : FiniteF32 (roundF32 neg m y)) :
    units (roundF32 neg m y) = signed neg (kept m y * 2 ^ lastPlace m y) ∧
    significand (roundF32 neg m y) % 2 = kept m y % 2 := by
  refine (roundF32_of_lt neg hm (not_le.mp fun hinf => ?_)).2
  rw [roundF32_of_ne_zero neg y hm, if_pos hinf] at hfin
  exact not_finiteF32_infF32 neg hfin

/-! ## The one rounding -/

/-- Below the last place, 24 bits reach less far than the exact value. -/
theorem signed_lt_of_lt_lastPlace {s e q : Nat} (neg : Bool) (hs : s < 2 ^ 24) (he : e < q) :
    signed neg (s * 2 ^ e) < 2 ^ 23 * 2 ^ q := by
  have hlt : s * 2 ^ e < 2 ^ 23 * 2 ^ q :=
    calc s * 2 ^ e < 2 ^ 24 * 2 ^ e := by gcongr
      _ = 2 ^ 23 * 2 ^ (e + 1) := by ring
      _ ≤ 2 ^ 23 * 2 ^ q := by gcongr; norm_num; omega
  have : ((s * 2 ^ e : Nat) : ℤ) < 2 ^ 23 * 2 ^ q := by exact_mod_cast hlt
  cases neg <;> simp only [signed] <;> omega

theorem abs_sub_lt_abs_sub {z g v : ℤ} (hlt : z < g) (hle : g ≤ v) : |g - v| < |z - v| := by
  rw [abs_of_nonpos (by omega), abs_of_nonpos (by omega)]
  omega

/-- Every finite pattern has the form `± s × 2^e` here, in units of 2^-298: a multiple of the last place, or
smaller than the multiple 2^23, which lies between it and the exact value. -/
theorem kept_noNearer {m s e : Nat} (y : Nat) (neg : Bool) (hm : m ≠ 0) (hs : s < 2 ^ 24) (he : 149 ≤ e) :
    NoNearer (kept m y * 2 ^ lastPlace m y : Nat) (signed neg (s * 2 ^ e)) (m * 2 ^ y : Nat) (kept m y) := by
  push_cast
  have hnear := (halfEven_kept m y).noNearer (by positivity)
  by_cases hq : lastPlace m y ≤ e
  · have hz : signed neg (s * 2 ^ e) = signed neg (s * 2 ^ (e - lastPlace m y)) * 2 ^ lastPlace m y := by
      rw [← signed_mul_two_pow, mul_assoc, ← pow_add, Nat.sub_add_cancel hq]
    rw [hz]
    exact hnear _
  · have hlt := signed_lt_of_lt_lastPlace neg hs (not_le.mp hq)
    have hle : (2 ^ 23 * 2 ^ lastPlace m y : ℤ) ≤ m * 2 ^ y := by
      exact_mod_cast two_pow_le_of_lastPlace hm (by omega)
    obtain ⟨hgrid, -⟩ := hnear (2 ^ 23)
    have hcloser := hgrid.trans_lt (abs_sub_lt_abs_sub hlt hle)
    exact ⟨hcloser.le, fun heq => absurd heq hcloser.ne⟩

@[simp] theorem units_zeroF32 (neg : Bool) : units (zeroF32 neg) = 0 := by
  cases neg <;> decide

theorem zeroF32_nearest (neg : Bool) : NearestEven (zeroF32 neg) (ofUnits 0) :=
  nearestEven_of_noNearer fun z _ => by
    rw [units_zeroF32]
    exact ⟨by simp, fun heq hne => absurd (by simpa using heq.symm) hne⟩

/-- R9, once for products and sums: the exact value `± m × 2^(y - 298)` is rounded to nearest even. -/
theorem roundF32_nearest {neg : Bool} {m y : Nat} (hfin : FiniteF32 (roundF32 neg m y)) :
    NearestEven (roundF32 neg m y) (ofUnits (signed neg (m * 2 ^ y))) := by
  by_cases hm : m = 0
  · have h0 : signed neg (0 * 2 ^ y) = 0 := by simp [signed]
    rw [hm, h0, roundF32_zero]
    exact zeroF32_nearest neg
  obtain ⟨hunits, hpar⟩ := roundF32_finite hm hfin
  refine nearestEven_of_noNearer fun z _ => ?_
  rw [hunits, NoNearer, hpar]
  have hkept (neg' : Bool) := kept_noNearer y neg' hm (significand_lt z) (Nat.le_add_left 149 (scale z))
  cases neg with
  | false => exact hkept (signOf z)
  | true =>
    have h := (hkept (!signOf z)).neg
    rw [signed_not, neg_neg] at h
    exact h

/-! ## Products -/

theorem fmul32_of_finite {x y : F32} (hx : FiniteF32 x) (hy : FiniteF32 y) :
    fmul32 x y = roundF32 (signOf x != signOf y) (significand x * significand y) (scale x + scale y) := by
  simp [fmul32, isNaN_of_finite, isInf_of_finite, hx, hy]

theorem valueF32_mul (x y : F32) :
    valueF32 x * valueF32 y =
      ofUnits (signed (signOf x != signOf y) (significand x * significand y * 2 ^ (scale x + scale y))) := by
  rw [valueF32_eq, valueF32_eq, div_mul_div_comm, ← Int.cast_mul, signed_mul, ofUnits, pow_add,
    mul_mul_mul_comm]

/-- Settles O34: the product is exact until `roundF32`. -/
theorem productRoundsToNearestEven : Obligations.ProductRoundsToNearestEven := by
  intro x y hx hy hfin
  rw [fmul32_of_finite hx hy] at hfin ⊢
  rw [valueF32_mul]
  exact roundF32_nearest hfin

/-! ## Sums -/

/-- Operands of one sign add, and of two signs the larger magnitude gives the sign. -/
theorem addFinite_nearest {nx ny : Bool} {mx my y : Nat} (hfin : FiniteF32 (addFinite nx ny mx my y)) :
    NearestEven (addFinite nx ny mx my y) (ofUnits (signed nx (mx * 2 ^ y) + signed ny (my * 2 ^ y))) := by
  unfold addFinite at hfin ⊢
  split_ifs at hfin ⊢ with hsign heq hlt
  · rw [hsign, ← signed_add, ← add_mul]
    exact roundF32_nearest (hsign ▸ hfin)
  · rw [heq, Bool.eq_not.mpr hsign, signed_not, neg_add_cancel]
    exact zeroF32_nearest false
  · rw [Bool.eq_not.mpr (Ne.symm hsign), signed_not, ← sub_eq_add_neg, ← signed_sub _ (by gcongr),
      ← Nat.sub_mul]
    exact roundF32_nearest hfin
  · rw [Bool.eq_not.mpr hsign, signed_not, add_comm, ← sub_eq_add_neg, ← signed_sub _ (by gcongr; omega),
      ← Nat.sub_mul]
    exact roundF32_nearest hfin

theorem fadd32_of_finite {x y : F32} (hx : FiniteF32 x) (hy : FiniteF32 y) :
    fadd32 x y =
      addFinite (signOf x) (signOf y)
        (significand x * 2 ^ (scale x - min (scale x) (scale y)))
        (significand y * 2 ^ (scale y - min (scale x) (scale y))) (min (scale x) (scale y) + 149) := by
  simp [fadd32, isNaN_of_finite, isInf_of_finite, hx, hy]

/-- Brought to a lower exponent, an operand keeps its value. -/
theorem units_eq_at {x : F32} {e : Nat} (he : e ≤ scale x) :
    units x = signed (signOf x) (significand x * 2 ^ (scale x - e) * 2 ^ (e + 149)) := by
  rw [units, mul_assoc, ← pow_add, ← Nat.add_assoc, Nat.sub_add_cancel he]

/-- Settles O35: the sum is exact until `roundF32`. -/
theorem sumRoundsToNearestEven : Obligations.SumRoundsToNearestEven := by
  intro x y hx hy hfin
  rw [fadd32_of_finite hx hy] at hfin ⊢
  rw [valueF32_eq_ofUnits, valueF32_eq_ofUnits, ← ofUnits_add,
    units_eq_at (min_le_left (scale x) (scale y)), units_eq_at (min_le_right (scale x) (scale y))]
  exact addFinite_nearest hfin

/-! ## Zeros and integers -/

theorem fmul32_of_isZero {x y : F32} (hx : FiniteF32 x) (hy : FiniteF32 y)
    (hzero : isZero x = true ∨ isZero y = true) : fmul32 x y = zeroF32 (signOf x != signOf y) := by
  have hprod : significand x * significand y = 0 :=
    mul_eq_zero.mpr (hzero.imp significand_of_isZero significand_of_isZero)
  rw [fmul32_of_finite hx hy, hprod, roundF32_zero]

/-- Turning the sign bit over changes the sign alone. -/
theorem fields_flip (x : F32) :
    signOf (x ^^^ 0x80000000#32) = !signOf x ∧ expOf (x ^^^ 0x80000000#32) = expOf x ∧
    fracOf (x ^^^ 0x80000000#32) = fracOf x := by
  have hexp : (0x80000000#32).extractLsb' 23 8 = 0#8 := by decide
  have hfrac : (0x80000000#32).extractLsb' 0 23 = 0#23 := by decide
  simp [signOf, expOf, fracOf, BitVec.extractLsb'_xor, hexp, hfrac]

/-- A value and its negation differ in sign alone, so the sum takes the branch of the exact zero. -/
theorem fadd32_flip {x : F32} (hx : FiniteF32 x) : fadd32 x (x ^^^ 0x80000000#32) = 0x00000000#32 := by
  obtain ⟨hsign, hexp, hfrac⟩ := fields_flip x
  have hflip : FiniteF32 (x ^^^ 0x80000000#32) := by rwa [FiniteF32, hexp]
  have hsig : significand (x ^^^ 0x80000000#32) = significand x := by
    simp only [significand, hexp, hfrac]
  have hscale : scale (x ^^^ 0x80000000#32) = scale x := by simp only [scale, hexp]
  rw [fadd32_of_finite hx hflip, hsign, hsig, hscale]
  simp [addFinite, zeroF32]

/-- Below 2^24 the last place is not above the units, so nothing is cut. -/
theorem f32_exact {k : Nat} (hk : k < 2 ^ 24) : FiniteF32 (f32 k) ∧ valueF32 (f32 k) = k := by
  by_cases hk0 : k = 0
  · rw [hk0, f32, roundF32_zero, valueF32_eq_ofUnits, units_zeroF32]
    exact ⟨by unfold FiniteF32; decide, by simp [ofUnits]⟩
  have hlog : k.log2 < 24 := (Nat.log2_lt hk0).mpr hk
  have hplace : lastPlace k 298 ≤ 298 := by unfold lastPlace; omega
  have hkept : kept k 298 * 2 ^ lastPlace k 298 = k * 2 ^ 298 := by
    rw [kept, if_pos hplace, mul_assoc, ← pow_add, Nat.sub_add_cancel hplace]
  have hpattern : (lastPlace k 298 - 149) * 2 ^ 23 + kept k 298 < 0x7F800000 := by
    have := kept_le k 298
    omega
  obtain ⟨hfin, hvalue, -⟩ := roundF32_of_lt false hk0 hpattern
  refine ⟨hfin, ?_⟩
  rw [valueF32_eq_ofUnits, f32, hvalue, hkept]
  exact ofUnits_mul_two_pow k

/-- Settles O36: a zero operand makes the significand rounded 0, a sum of zeros is evaluated. -/
theorem zeroSignsAndExactIntegers : Obligations.ZeroSignsAndExactIntegers := by
  refine ⟨fun x y hx hy hzero => ?_, by decide, by decide, by decide, fun x hx _ => fadd32_flip hx,
    fun k hk => f32_exact hk⟩
  rw [fmul32_of_isZero hx hy hzero]
  cases signOf x <;> cases signOf y <;> rfl

end Sys2Proof.Proofs
end

section
/-! PROOFS. What a step can do, said once: a uop's run as a step takes it, an accepted command, and the five
ways of a step (spec/43_frame_sequencer.md R164, R176; spec/70_reset_and_hazards.md R240, R257). -/

namespace Sys2Proof.Proofs
open Sys2Proof Sys2Proof.Machine

/-! ## The words of the uops -/

/-- The round trip of every operation, collected from the laws of the single constructors. -/
theorem roundTrip (i : Instr) : Laws.RoundTrip.Statement i := by
  cases i with
  | createSbMono i => exact Laws.RoundTrip.createSbMono i
  | createSbSt i => exact Laws.RoundTrip.createSbSt i
  | createSbIs i => exact Laws.RoundTrip.createSbIs i
  | allocMono i => exact Laws.RoundTrip.allocMono i
  | allocSt i => exact Laws.RoundTrip.allocSt i
  | allocIs i => exact Laws.RoundTrip.allocIs i
  | scfsiMono i => exact Laws.RoundTrip.scfsiMono i
  | scfsiSt i => exact Laws.RoundTrip.scfsiSt i
  | scfsiIs i => exact Laws.RoundTrip.scfsiIs i
  | scfMono i => exact Laws.RoundTrip.scfMono i
  | scfSt i => exact Laws.RoundTrip.scfSt i
  | scfIs i => exact Laws.RoundTrip.scfIs i
  | sampleMono i => exact Laws.RoundTrip.sampleMono i
  | sampleSt i => exact Laws.RoundTrip.sampleSt i
  | sampleIs i => exact Laws.RoundTrip.sampleIs i
  | putMono i => exact Laws.RoundTrip.putMono i
  | putSt i => exact Laws.RoundTrip.putSt i
  | putIs i => exact Laws.RoundTrip.putIs i
  | synthA => exact Laws.RoundTrip.synthA
  | synthB => exact Laws.RoundTrip.synthB
  | cfg crc sel => exact Laws.RoundTrip.cfg crc sel
  | decode => exact Laws.RoundTrip.decode

/-- Every uop is well formed: its index is five bits wide, its variant in its name. -/
theorem wellFormed_of_port {u : Instr} (h : u.port = .uopBus) : u.wellFormed = true := by
  cases u with
  | cfg crc sel => cases h
  | _ => rfl

theorem decodeUop_encode {u : Instr} (h : u.port = .uopBus) : decodeUop (encode u) = some u :=
  ((roundTrip u (wellFormed_of_port h)).2.1 h).1

/-- What decodes on the uop bus is a uop (30_encoding.md R88, R90). -/
theorem port_of_decodeUop {w : Word} {u : Instr} (h : decodeUop w = some u) : u.port = .uopBus := by
  unfold decodeUop synthOf uopOf at h
  repeat' split at h
  all_goals cases h
  all_goals rfl

/-- SEQ names uops only (43_frame_sequencer.md R164). -/
theorem port_of_nextUop {s : State} {u : Instr} (h : s.nextUop = some u) : u.port = .uopBus := by
  unfold State.nextUop at h
  repeat' split at h
  all_goals cases h
  all_goals cases s.seqVar <;> rfl

/-- SEQ names a uop exactly while a frame is in progress (10_state.md R22, R36). -/
theorem isSome_nextUop (s : State) : s.nextUop.isSome = s.busy := by
  unfold State.nextUop State.busy
  cases s.fsm with
  | sampleLoop => cases s.seqPh <;> rfl
  | _ => rfl

theorem busy_of_nextUop {s : State} {u : Instr} (h : s.nextUop = some u) : s.busy = true := by
  rw [← isSome_nextUop, h]; rfl

theorem not_busy_of_nextUop {s : State} (h : s.nextUop = none) : s.busy = false := by
  rw [← isSome_nextUop, h]; rfl

/-! ## A uop's run as a step takes it -/

/-- Whole or in part, a legal word on the uop bus is one run of `partUop`. -/
theorem issueWord_eq_partUop {w : Word} {u : Instr} (h : decodeUop w = some u) (d : Option Word) (s : State) :
    issueWord d w s = .next (s.partUop d u) := by
  unfold issueWord
  rw [h]
  by_cases hw : s.wholeUop = true
  · obtain ⟨hf, hb⟩ : s.inFlight = none ∧ s.budget = none := by simpa [State.wholeUop] using hw
    simpa [hw] using State.partUop_whole u s d (port_of_decodeUop h) hf hb
  · simp [hw]

theorem issueWord_illegal {w : Word} (h : decodeUop w = none) (d : Option Word) (s : State) :
    issueWord d w s = .next (s.uopFault (UopCtx.fresh w) .illegalUop) := by
  simp [issueWord, h]

/-- Everything a uop taken on by a step can leave: its completion, its fault, or s but for the ports. -/
theorem partUop_cases (d : Option Word) (u : Instr) (s : State) :
    (∃ c' t, uopBody u (s.uopCtx (encode u)) s = .done () c' t ∧ s.partUop d u = { t with inFlight := none }) ∨
    (∃ t, uopBody u (s.uopCtx (encode u)) s = .stop t ∧ s.partUop d u = { t with inFlight := none }) ∨
    (∃ x p, s.partUop d u = { s.withPorts p with outstanding := some x, inFlight := none }) ∨
    (∃ f p, s.partUop d u = { s.withPorts p with inFlight := some f }) := by
  unfold State.partUop
  cases uopBody u (s.uopCtx (encode u)) s with
  | done a c t => exact .inl ⟨c, t, rfl, rfl⟩
  | stop t => exact .inr (.inl ⟨t, rfl, rfl⟩)
  | hang x t => exact .inr (.inr (.inl ⟨x, t, rfl⟩))
  | pause t => exact .inr (.inr (.inr ⟨_, t, rfl⟩))

/-! ## SEQ after a uop -/

/-- A state with other SEQ, FSM and GUARD: all that `advance` writes. -/
theorem advance_eq (s : State) :
    s.advance = { s with
      guard := s.advance.guard, fsm := s.advance.fsm, seqI := s.advance.seqI
      seqPh := s.advance.seqPh, seqG := s.advance.seqG } := by
  unfold State.advance State.passGuard State.advanceLoop State.endPass State.nextSubband
  repeat' split
  all_goals rfl

@[simp] theorem advance_sb (s : State) : s.advance.sb = s.sb := by rw [advance_eq]
@[simp] theorem advance_bitcnt (s : State) : s.advance.bitcnt = s.bitcnt := by rw [advance_eq]
@[simp] theorem advance_params (s : State) : s.advance.params = s.params := by rw [advance_eq]

@[simp] theorem entry_advance (s : State) (i : SbIdx) : s.advance.entry i = s.entry i :=
  s.entry_congr (advance_sb s) i

theorem afterUop_of_ended {s : State} (ho : s.outstanding = none) (hf : s.inFlight = none) :
    s.afterUop = s.advance := by simp [State.afterUop, ho, hf]

theorem afterUop_of_outstanding {s : State} {x : Txn} (h : s.outstanding = some x) : s.afterUop = s := by
  simp [State.afterUop, h]

theorem afterUop_of_inFlight {s : State} {f : InFlight} (h : s.inFlight = some f) : s.afterUop = s := by
  simp [State.afterUop, h]

/-- A fault leaves SEQ where it is (60_exceptions.md R204). -/
theorem afterUop_of_error {s : State} (h : s.fsm = .error) : s.afterUop = s := by
  simp [State.afterUop, State.advance, h]

/-- `afterUop` moves SEQ or leaves the state. -/
theorem afterUop_cases (s : State) : s.afterUop = s ∨ s.afterUop = s.advance := by
  unfold State.afterUop
  split
  · exact .inl rfl
  · exact .inr rfl

theorem issueNext_eq {u : Instr} (h : u.port = .uopBus) (s : State) :
    issueNext u s = .next (s.partUop none u).afterUop := by
  rw [issueNext, issueWord_eq_partUop (decodeUop_encode h), mapNext_next]

/-! ## The ways of a step -/

/-- Only CFG and DECODE decode on CMD (30_encoding.md R91). -/
theorem decodeCmd_cases {w : Word} {i : Instr} (h : decodeCmd w = some i) :
    (∃ crc sel, i = .cfg crc sel) ∨ i = .decode := by
  unfold decodeCmd at h
  repeat' split at h
  all_goals cases h
  · exact .inl ⟨_, _, rfl⟩
  · exact .inr rfl

/-- Everything an accepted word can leave (43_frame_sequencer.md R160, R161; 30_encoding.md R91). -/
theorem acceptWord_cases {w : Word} {s t : State} (h : acceptWord w s = .next t) :
    (∃ x v, t = s.cmdFault x v) ∨
    (∃ sel crc, t = { s.clearFault with sel := sel, crcPresent := crc, created := true, fsm := .idle }) ∨
    (frameValid s.pins.hdr.mode s.pins.hdr.n s.pins.hdr.b = true ∧ t = s.startFrame) ∨
    (∃ x v, t = s.startFrame.cmdFault x v) := by
  unfold acceptWord at h
  cases hd : decodeCmd w with
  | none =>
    rw [hd] at h
    cases h
    exact .inl ⟨_, _, rfl⟩
  | some i =>
    rw [hd] at h
    obtain ⟨crc, sel, rfl⟩ | rfl := decodeCmd_cases hd
    · simp only [exec, execCfg] at h
      split at h
      · cases h; exact .inl ⟨_, _, rfl⟩
      · cases h; exact .inr (.inl ⟨_, _, rfl⟩)
    · simp only [exec, execDecode] at h
      split at h
      · cases h; exact .inl ⟨_, _, rfl⟩
      · split at h
        · cases h; exact .inr (.inr (.inl ⟨‹_›, rfl⟩))
        · cases h; exact .inr (.inr (.inr ⟨_, _, rfl⟩))

/-- The five ways of a step with the signals sampled: reset; a wait that changes nothing; a word driven on the
uop bus; the uop SEQ names; an accepted command. -/
theorem runSampled_cases {s t : State} (h : runSampled s = .next t) :
    (s.pins.rst = true ∧ t = s.applyReset) ∨
    ((s.outstanding = none → s.nextUop = none) ∧ t = s) ∨
    (∃ w, s.drivenWord = some w ∧ driveWord w s = .next t) ∨
    (∃ u, s.outstanding = none ∧ s.nextUop = some u ∧ t = (s.partUop none u).afterUop) ∨
    (∃ w, s.nextUop = none ∧ acceptWord w s.takeCmd = .next t) := by
  unfold runSampled at h
  split at h
  · cases h; exact .inl ⟨‹_›, rfl⟩
  split at h
  · rename_i x hx
    unfold waitOutstanding at h
    split at h <;> cases h
    exact .inr (.inl ⟨fun hn => absurd (hn.symm.trans hx) (by simp), rfl⟩)
  rename_i ho
  unfold runReady at h
  split at h
  · exact .inr (.inr (.inl ⟨_, ‹_›, h⟩))
  split at h
  · rename_i u hu
    rw [issueNext_eq (port_of_nextUop hu)] at h
    cases h
    exact .inr (.inr (.inr (.inl ⟨u, ho, hu, rfl⟩)))
  · rename_i hu
    unfold acceptOrIdle at h
    split at h
    · exact .inr (.inr (.inr (.inr ⟨_, hu, h⟩)))
    · cases h; exact .inr (.inl ⟨fun _ => hu, rfl⟩)

end Sys2Proof.Proofs
end

section
/-! PROOFS. What a uop leaves alone in the subband register file (spec/10_state.md R26, R28; spec/30_encoding.md
R62): the entries it does not name, and the constant IDX in all of them, also where it faults. -/

namespace Sys2Proof.Proofs
open Sys2Proof Sys2Proof.Machine

/-- t's entries are those of s but for the one that o names, if it names one, and IDX stays constant. -/
structure OnlyEntry (o : Option SbIdx) (s t : State) : Prop where
  others : ∀ j, o ≠ some j → t.entry j = s.entry j
  idx : s.IdxConstant → t.IdxConstant

theorem idxConstant_of_sb {s t : State} (h : t.sb = s.sb) (hs : s.IdxConstant) : t.IdxConstant := fun i => by
  rw [s.entry_congr h i]; exact hs i

theorem OnlyEntry.of_sb {o : Option SbIdx} {s t : State} (h : t.sb = s.sb) : OnlyEntry o s t :=
  ⟨fun j _ => s.entry_congr h j, idxConstant_of_sb h⟩

theorem OnlyEntry.trans {o : Option SbIdx} {s t u : State} (h : OnlyEntry o s t) (h' : OnlyEntry o t u) :
    OnlyEntry o s u :=
  ⟨fun j hj => (h'.others j hj).trans (h.others j hj), fun hs => h'.idx (h.idx hs)⟩

theorem OnlyEntry.setEntry (s : State) {i : SbIdx} {e : SbEntry} (he : (s.entry i).idx = i → e.idx = i) :
    OnlyEntry (some i) s (s.setEntry i e) where
  others j hj := s.entry_setEntry_other (fun hji => hj (congrArg some hji.symm)) e
  idx hs j := by
    rw [s.entry_setEntry]
    split
    · rename_i hji
      exact hji ▸ he (hs i)
    · exact hs j

theorem OnlyEntry.setChan (s : State) (i : SbIdx) (k : Ch) (c : Chan) : OnlyEntry (some i) s (s.setChan i k c) :=
  .setEntry s fun h => by simpa using h

theorem OnlyEntry.granuleStep (s : State) (i : SbIdx) : OnlyEntry (some i) s (s.granuleStep i) :=
  (OnlyEntry.setEntry s (e := { s.entry i with gcnt := nextGcnt (s.entry i).gcnt }) id).trans (.of_sb rfl)

/-- The entries of a failed frame become free, but for IDX (60_exceptions.md R204). -/
theorem idxConstant_uopFault {s : State} (hs : s.IdxConstant) (c : UopCtx) (x : Cause) :
    (s.uopFault c x).IdxConstant := fun i => by
  rw [s.spoilEntries.entry_congr (t := s.uopFault c x) rfl i, s.entry_spoilEntries]
  split
  · exact hs i
  · exact hs i

/-- A flow that writes no entry but the one o names; where it faults it is in ERROR, IDX still constant. -/
def Confined {α : Type} (o : Option SbIdx) (s : State) (x : Flow α) : Prop :=
  x.Sat (fun _ => OnlyEntry o s) (fun t => t.fsm = .error ∧ (s.IdxConstant → t.IdxConstant)) fun _ => True

theorem Confined.before {α : Type} {o : Option SbIdx} {s t : State} {x : Flow α} (h : OnlyEntry o s t)
    (hx : Confined o t x) : Confined o s x :=
  Flow.Sat.mono hx (fun _ _ h' => h.trans h') (fun _ h' => ⟨h'.1, fun hs => h'.2 (h.idx hs)⟩) fun _ _ => trivial

theorem Confined.bind {α β : Type} {o : Option SbIdx} {s : State} {x : Flow α} {f : α → UopCtx → State → Flow β}
    (hx : Confined o s x) (hf : ∀ a c t, Confined o t (f a c t)) : Confined o s (x.bind f) :=
  Flow.Sat.bind hx fun a c t h => Confined.before h (hf a c t)

theorem Confined.done {α : Type} {o : Option SbIdx} {s t : State} (a : α) (c : UopCtx) (h : OnlyEntry o s t) :
    Confined o s (.done a c t) := h

theorem Confined.fault {α : Type} (o : Option SbIdx) {s t : State} (h : t.sb = s.sb) (c : UopCtx) (x : Cause) :
    Confined o s (Flow.stop (α := α) (t.uopFault c x)) :=
  ⟨rfl, fun hs => idxConstant_uopFault (idxConstant_of_sb h hs) c x⟩

/-! ## The parts of the uops -/

section Parts
variable (o : Option SbIdx) (c : UopCtx) (i : SbIdx) (s : State)

theorem getBits_confined (n : Nat) : Confined o s (getBits c n s) := by
  rcases getBits_cases c n s with ⟨v, c', -, h⟩ | h | ⟨c', -, h⟩ <;> rw [h]
  · exact .done v c' (.of_sb rfl)
  · trivial
  rcases issueGetBits_cases c' n s with ⟨-, -, h⟩ | ⟨-, -, h⟩ | ⟨-, h⟩ <;> rw [h]
  · exact .done _ c' (.of_sb (s.tookBits_sb n))
  · exact .fault o (s.foundExhausted_sb n) c' _
  · trivial

theorem transact_confined (t : Txn) (r : Reply) {issued : State} (hi : issued.sb = s.sb) :
    Confined o s (transact c t r s issued) := by
  rcases transact_cases c t r s issued with ⟨c', h⟩ | h | ⟨c', -, h⟩ <;> rw [h]
  · exact .done () c' (.of_sb rfl)
  · trivial
  rcases complete_cases c' t r issued with ⟨-, h⟩ | ⟨-, h⟩ | ⟨-, h⟩ <;> rw [h]
  · exact .done () c' (.of_sb hi)
  · exact .fault o (t := issued.record t .err) hi c' _
  · trivial

theorem injectAll_confined (vs : List (Filter × F32)) : Confined o s (injectAll c i vs s) := by
  induction vs generalizing c s with
  | nil => exact .done () c (.of_sb rfl)
  | cons v vs ih => exact (transact_confined o c s _ _ (s.advanceFilter_sb v.1)).bind fun _ c t => ih c t

theorem checkEntry_confined (v : Variant) : Confined o s (checkEntry c i v s) := by
  rcases checkEntry_cases c i v s with ⟨-, -, h⟩ | ⟨-, h⟩ <;> rw [h]
  · exact .done () c (.of_sb rfl)
  · exact .fault o rfl c _

theorem getCode4_confined : Confined o s (getCode4 c s) :=
  (getBits_confined o c s 4).bind fun _ c _ => .done _ c (.of_sb rfl)

theorem foldCode_confined (a : BitVec 4) : Confined o s (foldCode c a s) := by
  unfold foldCode; split
  · exact transact_confined o c s _ _ rfl
  · exact .done () c (.of_sb rfl)

theorem allocOne_confined : Confined (some i) s (allocOne c i s) :=
  (getCode4_confined _ c s).bind fun a c t => (foldCode_confined _ c t a).bind fun _ c u =>
    .done () c (.setChan u i _ _)

theorem allocTwo_confined : Confined (some i) s (allocTwo c i s) :=
  (getCode4_confined _ c s).bind fun a0 c t => (getCode4_confined _ c t).bind fun a1 c u =>
  (foldCode_confined _ c u a0).bind fun _ c w => (foldCode_confined _ c w a1).bind fun _ c x =>
    .done () c ((OnlyEntry.setChan x i _ _).trans (.setChan _ i _ _))

theorem readScf_confined (k : Ch) : Confined (some i) s (readScf c i k s) :=
  (getBits_confined _ c s 6).bind fun _ c t => .done () c (.setChan t i k _)

theorem scfChannel_confined (k : Ch) : Confined (some i) s (scfChannel c i k s) := by
  unfold scfChannel; split
  · exact readScf_confined c i s k
  · exact .done () c (.of_sb rfl)

theorem scfShared_confined : Confined (some i) s (scfShared c i s) := by
  unfold scfShared; split
  · exact (readScf_confined c i s .c0).bind fun _ c t => readScf_confined c i t .c1
  · exact .done () c (.of_sb rfl)

theorem sampleChannel_confined (k : Ch) : Confined (some i) s (sampleChannel c i k s) := by
  unfold sampleChannel; split
  · exact (getBits_confined _ c s _).bind fun _ c t => .done () c (.setChan t i k _)
  · exact .done () c (.of_sb rfl)

theorem sampleOne_confined : Confined (some i) s (sampleOne c i s) :=
  (sampleChannel_confined c i s .c0).bind fun _ c t => .done () c (.granuleStep t i)

theorem sampleTwo_confined : Confined (some i) s (sampleTwo c i s) :=
  (sampleChannel_confined c i s .c0).bind fun _ c t =>
    .before (.granuleStep t i) (sampleChannel_confined c i _ .c1)

theorem emit_confined (vs : List (Filter × F32)) : Confined o s (emit c i vs s) :=
  (injectAll_confined o c i s vs).bind fun _ c _ => .done () c (.of_sb rfl)

end Parts

/-- A uop writes no entry but the one its SB field names, run whole or in part. -/
theorem uopBody_confined (u : Instr) (c : UopCtx) (s : State) : Confined (subbandOf u) s (uopBody u c s) := by
  have create (i : SbIdx) (v : Variant) : Confined (some i) s (createSb v i c s) :=
    .done () c (.setEntry s fun _ => rfl)
  have checked (i : SbIdx) (v : Variant) {f : UopCtx → State → Flow Unit}
      (hf : ∀ c t, Confined (some i) t (f c t)) :
      Confined (some i) s ((checkEntry c i v s).bind fun _ c t => f c t) :=
    (checkEntry_confined _ c i s v).bind fun _ c t => hf c t
  cases u with
  | createSbMono i => exact create i .mono
  | createSbSt i => exact create i .st
  | createSbIs i => exact create i .is
  | allocMono i => exact checked i .mono fun c t => allocOne_confined c i t
  | allocSt i => exact checked i .st fun c t => allocTwo_confined c i t
  | allocIs i => exact checked i .is fun c t => allocOne_confined c i t
  | scfsiMono i => exact checkEntry_confined _ c i s .mono
  | scfsiSt i => exact checkEntry_confined _ c i s .st
  | scfsiIs i => exact checkEntry_confined _ c i s .is
  | scfMono i => exact checked i .mono fun c t => scfChannel_confined c i t .c0
  | scfSt i =>
    exact checked i .st fun c t => (scfChannel_confined c i t .c0).bind fun _ c u => scfChannel_confined c i u .c1
  | scfIs i => exact checked i .is fun c t => scfShared_confined c i t
  | sampleMono i => exact checked i .mono fun c t => sampleOne_confined c i t
  | sampleSt i => exact checked i .st fun c t => sampleTwo_confined c i t
  | sampleIs i => exact checked i .is fun c t => sampleOne_confined c i t
  | putMono i => exact checked i .mono fun c t => emit_confined _ c i t _
  | putSt i => exact checked i .st fun c t => emit_confined _ c i t _
  | putIs i => exact checked i .is fun c t => emit_confined _ c i t _
  | synthA => exact transact_confined none c s _ _ rfl
  | synthB => exact transact_confined none c s _ _ rfl
  | cfg crc sel => exact .done () c (.of_sb rfl)
  | decode => exact .done () c (.of_sb rfl)

theorem onlyEntry_of_done {u : Instr} {c c' : UopCtx} {s t : State} (h : uopBody u c s = .done () c' t) :
    OnlyEntry (subbandOf u) s t := by
  have hc := uopBody_confined u c s
  rwa [h] at hc

/-- A uop that stops early is in ERROR. -/
theorem fault_of_stop {u : Instr} {c : UopCtx} {s t : State} (h : uopBody u c s = .stop t) :
    t.fsm = .error ∧ (s.IdxConstant → t.IdxConstant) := by
  have hc := uopBody_confined u c s
  rwa [h] at hc

/-- Everything a uop run whole can do to the register file. -/
theorem entries_of_exec {u : Instr} {s t : State} (hu : u.port = .uopBus) (h : exec u s = .next t) :
    t.fsm = .error ∨ OnlyEntry (subbandOf u) s t := by
  rw [exec_uop u s hu, runUop_eq] at h
  cases h
  rcases Flow.settle_cases (uopBody u (UopCtx.fresh (encode u)) s) s with
    ⟨_, c', t, hx, h⟩ | ⟨t, hx, h⟩ | ⟨t, y, -, h⟩ | ⟨t, -, h⟩ <;> rw [h]
  · exact .inr (onlyEntry_of_done hx)
  · exact .inl (fault_of_stop hx).1
  · exact .inr (.of_sb rfl)
  · exact .inr (.of_sb rfl)

/-- Settles O56: a uop that does not fault is confined to the entry it names. -/
theorem uopTouchesOnlyItsEntry : Obligations.UopTouchesOnlyItsEntry := by
  intro u s t j hu h _ ht hj
  rcases entries_of_exec hu h with hf | he
  · exact absurd hf ht
  · exact he.others j hj

/-! ## Every step keeps IDX and the parameters -/

/-- IDX stays constant and the parameters stand. -/
structure KeepsConstants (s t : State) : Prop where
  params : t.params = s.params
  idx : s.IdxConstant → t.IdxConstant

theorem KeepsConstants.trans {s t u : State} (h : KeepsConstants s t) (h' : KeepsConstants t u) :
    KeepsConstants s u := ⟨h'.params.trans h.params, fun hs => h'.idx (h.idx hs)⟩

theorem KeepsConstants.of_sb {s t : State} (hp : t.params = s.params) (hs : t.sb = s.sb) : KeepsConstants s t :=
  ⟨hp, idxConstant_of_sb hs⟩

theorem KeepsConstants.uopFault (s : State) (c : UopCtx) (x : Cause) : KeepsConstants s (s.uopFault c x) :=
  ⟨rfl, fun hs => idxConstant_uopFault hs c x⟩

/-- DECODE clears VALID and nothing else of an entry (43_frame_sequencer.md R161). -/
@[simp] theorem entry_startFrame (s : State) (i : SbIdx) :
    s.startFrame.entry i = { s.entry i with valid := false } := s.entry_clearValid i

theorem KeepsConstants.startFrame (s : State) : KeepsConstants s s.startFrame :=
  ⟨rfl, fun hs i => by rw [entry_startFrame]; exact hs i⟩

theorem KeepsConstants.sampleInputs (s : State) : KeepsConstants s s.sampleInputs := by
  rw [s.sampleInputs_eq]; exact .of_sb rfl rfl

theorem KeepsConstants.afterUop (s : State) : KeepsConstants s s.afterUop := by
  rcases afterUop_cases s with h | h <;> rw [h]
  · exact .of_sb rfl rfl
  · exact .of_sb (advance_params s) (advance_sb s)

theorem KeepsConstants.partUop (d : Option Word) (u : Instr) (s : State) :
    KeepsConstants s (s.partUop d u) := by
  have hp := (uopBody_keeps u (s.uopCtx (encode u)) s).settle.params
  rcases partUop_cases d u s with ⟨c', t, hx, h⟩ | ⟨t, hx, h⟩ | ⟨x, p, h⟩ | ⟨f, p, h⟩ <;> rw [h]
  · rw [hx] at hp; exact ⟨hp, (onlyEntry_of_done hx).idx⟩
  · rw [hx] at hp; exact ⟨hp, (fault_of_stop hx).2⟩
  · exact .of_sb rfl rfl
  · exact .of_sb rfl rfl

theorem KeepsConstants.issueWord {d : Option Word} {w : Word} {s t : State} (h : issueWord d w s = .next t) :
    KeepsConstants s t := by
  cases hd : decodeUop w with
  | none => rw [issueWord_illegal hd] at h; cases h; exact .uopFault s _ _
  | some u => rw [issueWord_eq_partUop hd] at h; cases h; exact .partUop d u s

theorem KeepsConstants.driveWord {w : Word} {s t : State} (h : driveWord w s = .next t) : KeepsConstants s t := by
  have hk := KeepsConstants.issueWord h
  split at hk
  · exact (KeepsConstants.of_sb s.takeUop_params s.takeUop_sb).trans hk
  · exact hk

theorem KeepsConstants.acceptWord {w : Word} {s t : State} (h : acceptWord w s = .next t) :
    KeepsConstants s t := by
  rcases acceptWord_cases h with ⟨x, v, rfl⟩ | ⟨sel, crc, rfl⟩ | ⟨-, rfl⟩ | ⟨x, v, rfl⟩
  · exact .of_sb rfl rfl
  · exact .of_sb rfl rfl
  · exact .startFrame s
  · exact (KeepsConstants.startFrame s).trans (.of_sb rfl rfl)

/-- Reset gives every entry its own IDX, whatever stood there (70_reset_and_hazards.md R241, R242). -/
theorem KeepsConstants.applyReset (s : State) : KeepsConstants s s.applyReset where
  params := by
    show s.abandon.params = s.params
    unfold State.abandon
    split <;> rfl
  idx _ i := by rw [State.reset.entry_congr (t := s.applyReset) rfl i, State.entry_reset]; rfl

theorem KeepsConstants.runSampled {s t : State} (h : runSampled s = .next t) : KeepsConstants s t := by
  rcases runSampled_cases h with ⟨-, rfl⟩ | ⟨-, rfl⟩ | ⟨w, -, h⟩ | ⟨u, -, -, rfl⟩ | ⟨w, -, h⟩
  · exact .applyReset s
  · exact .of_sb rfl rfl
  · exact .driveWord h
  · exact (KeepsConstants.partUop none u s).trans (.afterUop _)
  · exact (KeepsConstants.of_sb s.takeCmd_params s.takeCmd_sb).trans (.acceptWord h)

/-- Settles O50: each way of a step keeps the constants. -/
theorem everyStepKeepsIdxAndParams : Obligations.EveryStepKeepsIdxAndParams := fun s _ h =>
  have hk := (KeepsConstants.sampleInputs s).trans (.runSampled h)
  ⟨hk.params, hk.idx⟩

end Sys2Proof.Proofs
end

section
/-! PROOFS. What a uop that completes has written, one lemma for each kind of uop (spec/41_subband_ops.md R110 to
R123; spec/42_dequant_routing.md R140 to R150): the entry it names, BITCNT and the flags. -/

namespace Sys2Proof.Proofs
open Sys2Proof Sys2Proof.Machine

/-! ## What has been written -/

/-- t is s but for k more bits counted, and the ports. -/
structure Counted (s : State) (k : Nat) (t : State) : Prop where
  sb : t.sb = s.sb
  bitcnt : t.bitcnt = s.bitcnt + BitVec.ofNat 32 k
  rready : t.rready = s.rready
  wready : t.wready = s.wready
  fsm : t.fsm = s.fsm
  outstanding : t.outstanding = s.outstanding
  params : t.params = s.params

theorem Counted.refl (s : State) : Counted s 0 s := by constructor <;> simp

/-- From s to t entry i has become e, k bits were counted, and RREADY and WREADY have become r and w. -/
structure Wrote (s : State) (i : SbIdx) (e : SbEntry) (k : Nat) (r w : Bool) (t : State) : Prop where
  entry : t.entry i = e
  others : ∀ j, j ≠ i → t.entry j = s.entry j
  bitcnt : t.bitcnt = s.bitcnt + BitVec.ofNat 32 k
  rready : t.rready = r
  wready : t.wready = w
  fsm : t.fsm = s.fsm
  outstanding : t.outstanding = s.outstanding
  params : t.params = s.params

theorem Wrote.refl (s : State) (i : SbIdx) : Wrote s i (s.entry i) 0 s.rready s.wready s :=
  ⟨rfl, fun _ _ => rfl, by simp, rfl, rfl, rfl, rfl, rfl⟩

section Wrote
variable {s m t : State} {i : SbIdx} {e : SbEntry} {k n : Nat} {r w : Bool} (h : Wrote s i e k r w m)
include h

theorem Wrote.counted (hc : Counted m n t) : Wrote s i e (k + n) r w t where
  entry := (m.entry_congr hc.sb i).trans h.entry
  others j hj := (m.entry_congr hc.sb j).trans (h.others j hj)
  bitcnt := by rw [hc.bitcnt, h.bitcnt, BitVec.add_assoc, BitVec.ofNat_add]
  rready := hc.rready.trans h.rready
  wready := hc.wready.trans h.wready
  fsm := hc.fsm.trans h.fsm
  outstanding := hc.outstanding.trans h.outstanding
  params := hc.params.trans h.params

theorem Wrote.setEntry (e' : SbEntry) : Wrote s i e' k r w (m.setEntry i e') :=
  ⟨m.entry_setEntry_same i e', fun j hj => (m.entry_setEntry_other hj e').trans (h.others j hj), h.bitcnt, h.rready,
    h.wready, h.fsm, h.outstanding, h.params⟩

theorem Wrote.setChan (l : Ch) (x : Chan) : Wrote s i (e.withCh l x) k r w (m.setChan i l x) :=
  h.entry ▸ h.setEntry ((m.entry i).withCh l x)

theorem Wrote.granuleStep :
    Wrote s i { e with gcnt := nextGcnt e.gcnt } k (readReadyAt e.gcnt) w (m.granuleStep i) where
  entry := h.entry ▸ m.entry_granuleStep_same i
  others j hj := (m.entry_granuleStep_other hj).trans (h.others j hj)
  bitcnt := h.bitcnt
  rready := h.entry ▸ rfl
  wready := h.wready
  fsm := h.fsm
  outstanding := h.outstanding
  params := h.params

theorem Wrote.chan (l : Ch) : m.chan i l = e.ch l := congrArg (SbEntry.ch · l) h.entry

end Wrote

@[simp] theorem withCh_ch (e : SbEntry) (l : Ch) : e.withCh l (e.ch l) = e := by cases l <;> rfl

@[simp] theorem ch_c0 (e : SbEntry) : e.ch .c0 = e.ch0 := rfl

/-! ## Transactions and checks that go on -/

theorem bind_eq_done {α β : Type} {x : Flow α} {f : α → UopCtx → State → Flow β} {b : β} {c' : UopCtx}
    {t : State} : x.bind f = .done b c' t ↔ ∃ a c m, x = .done a c m ∧ f a c m = .done b c' t := by
  cases x <;> simp

/-- A GetBits that completes gives an n-bit value and counts n bits (20_memory.md R56, 10_state.md R35). -/
theorem getBits_done {c c' : UopCtx} {n v : Nat} {s t : State} (h : getBits c n s = .done v c' t) :
    v < 2 ^ n ∧ Counted s n t := by
  rcases getBits_cases c n s with ⟨w, c1, hw, h1⟩ | h1 | ⟨c1, -, h1⟩ <;> rw [h1] at h
  · cases h; exact ⟨hw, rfl, rfl, rfl, rfl, rfl, rfl, rfl⟩
  · cases h
  rcases issueGetBits_cases c1 n s with ⟨-, hh, h2⟩ | ⟨-, -, h2⟩ | ⟨-, h2⟩ <;> rw [h2] at h <;> cases h
  exact ⟨BitReader.peek_lt hh, by constructor <;> simp⟩

/-- A CrcAdd, Inject or Synth that completes writes no register (20_memory.md R57 to R60). -/
theorem transact_done {c c' : UopCtx} {x : Txn} {r : Reply} {s issued t : State} {u : Unit}
    (hi : Counted s 0 issued) (h : transact c x r s issued = .done u c' t) : Counted s 0 t := by
  rcases transact_cases c x r s issued with ⟨c1, h1⟩ | h1 | ⟨c1, -, h1⟩ <;> rw [h1] at h
  · cases h; exact .refl s
  · cases h
  rcases complete_cases c1 x r issued with ⟨-, h2⟩ | ⟨-, h2⟩ | ⟨-, h2⟩ <;> rw [h2] at h <;> cases h
  exact ⟨hi.sb, hi.bitcnt, hi.rready, hi.wready, hi.fsm, hi.outstanding, hi.params⟩

theorem counted_advanceFilter (s : State) (f : Filter) : Counted s 0 (s.advanceFilter f) := by
  constructor <;> simp

theorem foldCode_done {c c' : UopCtx} {a : BitVec 4} {s t : State} {u : Unit}
    (h : foldCode c a s = .done u c' t) : Counted s 0 t := by
  unfold foldCode at h
  split at h
  · exact transact_done (issued := { s with crc := s.crc.advance }) (by constructor <;> simp) h
  · cases h; exact .refl s

theorem getCode4_done {c c' : UopCtx} {a : BitVec 4} {s t : State} (h : getCode4 c s = .done a c' t) :
    Counted s 4 t := by
  obtain ⟨v, c1, m, h1, h2⟩ := bind_eq_done.mp h
  cases h2
  exact (getBits_done h1).2

/-- Past its checks a uop stands where it began, its entry valid and of its variant (30_encoding.md R90). -/
theorem checked_done {c c' : UopCtx} {i : SbIdx} {v : Variant} {s t : State} {u : Unit}
    {f : UopCtx → State → Flow Unit}
    (h : ((checkEntry c i v s).bind fun _ c s => f c s) = .done u c' t) :
    s.Names i v ∧ f c s = .done u c' t := by
  obtain ⟨_, c1, m, h1, h2⟩ := bind_eq_done.mp h
  rcases checkEntry_cases c i v s with ⟨hv, hw, h3⟩ | ⟨-, h3⟩ <;> rw [h3] at h1 <;> cases h1
  exact ⟨⟨hv, hw⟩, h2⟩

/-! ## The parts of the subband uops, on from what was written before -/

/-- y is the channel x, or x after ReadScf (41_subband_ops.md R116). -/
def Rescaled (x y : Chan) : Prop := y = x ∨ ∃ code, y = x.scaled code

/-- y is the channel x, or x after a sample of its width (41_subband_ops.md R120). -/
def Resampled (x y : Chan) : Prop := y = x ∨ ∃ v, v < 2 ^ x.w.toNat ∧ y = x.sampled v

/-- The bits SAMPLE asks for in a channel (41_subband_ops.md R120). -/
def readWidth (x : Chan) : Nat := if x.a = 0#4 then 0 else x.w.toNat

section Parts
variable {s m t : State} {i : SbIdx} {e : SbEntry} {k : Nat} {r w : Bool} (hm : Wrote s i e k r w m)
  {c c' : UopCtx} {u : Unit} {l : Ch}
include hm

theorem Wrote.injectAll {vs : List (Filter × F32)} (h : injectAll c i vs m = .done u c' t) :
    Wrote s i e k r w t := by
  induction vs generalizing c m with
  | nil => cases h; exact hm
  | cons v vs ih =>
    obtain ⟨_, c1, n, h1, h2⟩ := bind_eq_done.mp h
    exact ih (hm.counted (transact_done (counted_advanceFilter m v.1) h1)) h2

theorem Wrote.setAlloc (hp : m.params = s.params) (a : BitVec 4) :
    Wrote s i (e.withCh l ((e.ch l).withAlloc s.params.offsetVariant a)) k r w (m.setAlloc i l a) := by
  rw [State.setAlloc, hm.chan, hp]
  exact hm.setChan l _

theorem Wrote.readScf (h : readScf c i l m = .done u c' t) :
    ∃ x, Rescaled (e.ch l) x ∧ Wrote s i (e.withCh l x) (k + 6) r w t := by
  obtain ⟨v, c1, n, h1, h⟩ := bind_eq_done.mp h
  cases h
  have hn := hm.counted (getBits_done h1).2
  refine ⟨_, .inr ⟨BitVec.ofNat 6 v, rfl⟩, ?_⟩
  rw [← hn.chan l]
  exact hn.setChan l _

/-- A gated channel of SCF (41_subband_ops.md R117, R118). -/
theorem Wrote.scfChannel (h : scfChannel c i l m = .done u c' t) :
    ∃ x, Rescaled (e.ch l) x ∧ Wrote s i (e.withCh l x) (k + 6 * nonzeroCode (e.ch l).a) r w t := by
  unfold Machine.scfChannel at h
  rw [hm.chan] at h
  by_cases ha : (e.ch l).a = 0#4
  · rw [if_neg (by simp [ha])] at h
    cases h
    exact ⟨_, .inl rfl, by simpa [nonzeroCode, ha] using hm⟩
  · rw [if_pos ha] at h
    simpa [nonzeroCode, ha] using hm.readScf h

/-- Both channels of SCF.IS, gated by the one code (41_subband_ops.md R119). -/
theorem Wrote.scfShared (h : scfShared c i m = .done u c' t) :
    ∃ x y, Rescaled e.ch0 x ∧ Rescaled e.ch1 y ∧
      Wrote s i { e with ch0 := x, ch1 := y } (k + 12 * nonzeroCode e.ch0.a) r w t := by
  unfold Machine.scfShared at h
  rw [hm.chan, ch_c0] at h
  by_cases ha : e.ch0.a = 0#4
  · rw [if_neg (by simp [ha])] at h
    cases h
    exact ⟨_, _, .inl rfl, .inl rfl, by simpa [nonzeroCode, ha] using hm⟩
  · rw [if_pos ha] at h
    obtain ⟨_, c1, n, h1, h⟩ := bind_eq_done.mp h
    obtain ⟨x, hx, h1⟩ := hm.readScf h1
    obtain ⟨y, hy, h2⟩ := h1.readScf h
    rw [show 12 * nonzeroCode e.ch0.a = 6 + 6 by simp [nonzeroCode, ha], ← Nat.add_assoc]
    exact ⟨x, y, hx, hy, h2⟩

/-- A gated channel of SAMPLE (41_subband_ops.md R120, R121). -/
theorem Wrote.sampleChannel (h : sampleChannel c i l m = .done u c' t) :
    ∃ x, Resampled (e.ch l) x ∧ Wrote s i (e.withCh l x) (k + readWidth (e.ch l)) r w t := by
  unfold Machine.sampleChannel at h
  rw [hm.chan] at h
  by_cases ha : (e.ch l).a = 0#4
  · rw [if_neg (by simp [ha])] at h
    cases h
    exact ⟨_, .inl rfl, by simpa [readWidth, ha] using hm⟩
  · rw [if_pos ha] at h
    obtain ⟨v, c1, n, h1, h⟩ := bind_eq_done.mp h
    obtain ⟨hv, hc⟩ := getBits_done h1
    cases h
    have hn := hm.counted hc
    have hx := hn.setChan l ((n.chan i l).sampled v)
    rw [readWidth, if_neg ha]
    exact ⟨_, .inr ⟨v, hv, rfl⟩, hn.chan l ▸ hx⟩

end Parts

/-! ## The uops, by kind -/

section Uops
variable {v : Variant} {i : SbIdx} {c c' : UopCtx} {s t : State} {u : Unit}

theorem createSb_done (h : uopBody (createSbInstr v i) c s = .done u c' t) :
    Wrote s i (SbEntry.created v i) 0 s.rready s.wready t := by
  have hw := (Wrote.refl s i).setEntry (SbEntry.created v i)
  cases v <;> cases h <;> exact hw

/-- An entry of variant v after ALLOC with the codes a0 and a1 (41_subband_ops.md R112 to R114). -/
def allocated (e : SbEntry) (p : OffsetVariant) (v : Variant) (a0 a1 : BitVec 4) : SbEntry :=
  { e with
    ch0 := e.ch0.withAlloc p a0
    ch1 := match v with
      | .st => e.ch1.withAlloc p a1
      | .mono | .is => e.ch1 }

theorem allocOne_done (h : allocOne c i s = .done u c' t) :
    ∃ a, Wrote s i { s.entry i with ch0 := (s.entry i).ch0.withAlloc s.params.offsetVariant a } 4 s.rready s.wready
      t := by
  obtain ⟨a, c1, m, h1, h⟩ := bind_eq_done.mp h
  obtain ⟨_, c2, n, h2, h⟩ := bind_eq_done.mp h
  cases h
  have hn := ((Wrote.refl s i).counted (getCode4_done h1)).counted (foldCode_done h2)
  exact ⟨a, hn.setAlloc (l := .c0) hn.params a⟩

theorem allocTwo_done (h : allocTwo c i s = .done u c' t) :
    ∃ a0 a1, Wrote s i (allocated (s.entry i) s.params.offsetVariant .st a0 a1) 8 s.rready s.wready t := by
  obtain ⟨a0, c1, m1, h1, h⟩ := bind_eq_done.mp h
  obtain ⟨a1, c2, m2, h2, h⟩ := bind_eq_done.mp h
  obtain ⟨_, c3, m3, h3, h⟩ := bind_eq_done.mp h
  obtain ⟨_, c4, m4, h4, h⟩ := bind_eq_done.mp h
  cases h
  have hn := ((((Wrote.refl s i).counted (getCode4_done h1)).counted (getCode4_done h2)).counted
    (foldCode_done h3)).counted (foldCode_done h4)
  have ho := hn.setAlloc (l := .c0) hn.params a0
  exact ⟨a0, a1, ho.setAlloc (l := .c1) ho.params a1⟩

/-- ALLOC stores its codes, and reads what R85 counts for the entry (41_subband_ops.md R112 to R114). -/
theorem alloc_done (h : uopBody (allocInstr v i) c s = .done u c' t) :
    ∃ a0 a1, Wrote s i (allocated (s.entry i) s.params.offsetVariant v a0 a1) (s.entry i).allocBits s.rready s.wready
      t := by
  cases v with
  | mono =>
    obtain ⟨⟨-, hv⟩, h⟩ := checked_done h
    obtain ⟨a, hw⟩ := allocOne_done h
    exact ⟨a, 0#4, by rw [SbEntry.allocBits, hv]; exact hw⟩
  | st =>
    obtain ⟨⟨-, hv⟩, h⟩ := checked_done h
    rw [SbEntry.allocBits, hv]
    exact allocTwo_done h
  | is =>
    obtain ⟨⟨-, hv⟩, h⟩ := checked_done h
    obtain ⟨a, hw⟩ := allocOne_done h
    exact ⟨a, 0#4, by rw [SbEntry.allocBits, hv]; exact hw⟩

/-- SCFSI writes nothing (41_subband_ops.md R115). -/
theorem scfsi_done (h : uopBody (scfsiInstr v i) c s = .done u c' t) : t = s := by
  have of_check (h : checkEntry c i v s = .done u c' t) : t = s := by
    rcases checkEntry_cases c i v s with ⟨-, -, h1⟩ | ⟨-, h1⟩ <;> rw [h1] at h <;> cases h
    rfl
  cases v <;> exact of_check h

/-- SCF writes the scale factors, and reads what R85 counts for the entry (41_subband_ops.md R117 to R119). -/
theorem scf_done (h : uopBody (scfInstr v i) c s = .done u c' t) :
    ∃ x y, Rescaled (s.entry i).ch0 x ∧ Rescaled (s.entry i).ch1 y ∧
      ((s.entry i).var = .mono → y = (s.entry i).ch1) ∧
      Wrote s i { s.entry i with ch0 := x, ch1 := y } (s.entry i).scfBits s.rready s.wready t := by
  cases v with
  | mono =>
    obtain ⟨⟨-, hv⟩, h⟩ := checked_done h
    obtain ⟨x, hx, hw⟩ := (Wrote.refl s i).scfChannel h
    exact ⟨x, _, hx, .inl rfl, fun _ => rfl, by rw [SbEntry.scfBits, hv]; rw [Nat.zero_add] at hw; exact hw⟩
  | st =>
    obtain ⟨⟨-, hv⟩, h⟩ := checked_done h
    obtain ⟨_, c1, m, h1, h⟩ := bind_eq_done.mp h
    obtain ⟨x, hx, h1⟩ := (Wrote.refl s i).scfChannel h1
    obtain ⟨y, hy, hw⟩ := h1.scfChannel h
    exact ⟨x, y, hx, hy, fun hm => by simp [hv] at hm, by rw [SbEntry.scfBits, hv]; rw [Nat.zero_add] at hw; exact hw⟩
  | is =>
    obtain ⟨⟨-, hv⟩, h⟩ := checked_done h
    obtain ⟨x, y, hx, hy, hw⟩ := (Wrote.refl s i).scfShared h
    exact ⟨x, y, hx, hy, fun hm => by simp [hv] at hm, by rw [SbEntry.scfBits, hv]; rw [Nat.zero_add] at hw; exact hw⟩

/-- The bits SAMPLE asks for in an entry (41_subband_ops.md R120 to R123). -/
def readWidths (e : SbEntry) : Nat :=
  match e.var with
  | .st => readWidth e.ch0 + readWidth e.ch1
  | .mono | .is => readWidth e.ch0

/-- An entry after SAMPLE: the samples and the granule counter (41_subband_ops.md R120 to R123). -/
def sampledEntry (e : SbEntry) (x y : Chan) : SbEntry := { e with ch0 := x, ch1 := y, gcnt := nextGcnt e.gcnt }

theorem sampleOne_done (h : sampleOne c i s = .done u c' t) :
    ∃ x, Resampled (s.entry i).ch0 x ∧
      Wrote s i (sampledEntry (s.entry i) x (s.entry i).ch1) (readWidth (s.entry i).ch0)
        (readReadyAt (s.entry i).gcnt) s.wready t := by
  obtain ⟨_, c1, m, h1, h⟩ := bind_eq_done.mp h
  obtain ⟨x, hx, hw⟩ := (Wrote.refl s i).sampleChannel h1
  cases h
  rw [Nat.zero_add] at hw
  exact ⟨x, hx, hw.granuleStep⟩

/-- SAMPLE writes the samples, GCNT and RREADY (41_subband_ops.md R120 to R123). -/
theorem sample_done (h : uopBody (sampleInstr v i) c s = .done u c' t) :
    ∃ x y, Resampled (s.entry i).ch0 x ∧ Resampled (s.entry i).ch1 y ∧
      ((s.entry i).var = .mono → y = (s.entry i).ch1) ∧
      Wrote s i (sampledEntry (s.entry i) x y) (readWidths (s.entry i)) (readReadyAt (s.entry i).gcnt) s.wready
        t := by
  cases v with
  | mono =>
    obtain ⟨⟨-, hv⟩, h⟩ := checked_done h
    obtain ⟨x, hx, hw⟩ := sampleOne_done h
    exact ⟨x, _, hx, .inl rfl, fun _ => rfl, by rw [readWidths, hv]; exact hw⟩
  | st =>
    obtain ⟨⟨-, hv⟩, h⟩ := checked_done h
    obtain ⟨_, c1, m, h1, h⟩ := bind_eq_done.mp h
    obtain ⟨x, hx, h1⟩ := (Wrote.refl s i).sampleChannel h1
    obtain ⟨y, hy, hw⟩ := h1.granuleStep.sampleChannel h
    exact ⟨x, y, hx, hy, fun hm => by simp [hv] at hm, by rw [readWidths, hv]; rw [Nat.zero_add] at hw; exact hw⟩
  | is =>
    obtain ⟨⟨-, hv⟩, h⟩ := checked_done h
    obtain ⟨x, hx, hw⟩ := sampleOne_done h
    exact ⟨x, _, hx, .inl rfl, fun _ => rfl, by rw [readWidths, hv]; exact hw⟩

theorem emit_done {vs : List (Filter × F32)} (h : emit c i vs s = .done u c' t) :
    Wrote s i (s.entry i) 0 s.rready true t := by
  obtain ⟨_, c1, m, h1, h⟩ := bind_eq_done.mp h
  have hw := (Wrote.refl s i).injectAll h1
  cases h
  exact ⟨hw.entry, hw.others, hw.bitcnt, hw.rready, rfl, hw.fsm, hw.outstanding, hw.params⟩

/-- PUT writes WREADY alone (42_dequant_routing.md R140). -/
theorem put_done (h : uopBody (putInstr v i) c s = .done u c' t) : Wrote s i (s.entry i) 0 s.rready true t := by
  cases v <;> exact emit_done (checked_done h).2

/-- SYNTH writes no register (42_dequant_routing.md R149, R150). -/
theorem synth_done {f : Filter} (h : synth c f s = .done u c' t) : Wrote s i (s.entry i) 0 s.rready s.wready t :=
  (Wrote.refl s i).counted (transact_done (counted_advanceFilter s f) h)

end Uops
end Sys2Proof.Proofs
end

section
/-! PROOFS. The frame invariant (spec/43_frame_sequencer.md R162 to R174): what the sequencer's uop has written when
it completes, where SEQ goes then, and that the frame's registers are again as the schedule has made them. -/

namespace Sys2Proof.Proofs
open Sys2Proof Sys2Proof.Machine

/-! ## The uop that SEQ names has completed -/

/-- What the uop that SEQ names writes where it completes, for each place SEQ can be at: its entry becomes e, k bits
are counted, RREADY and WREADY become r and w. -/
inductive Ran (s : State) : SbEntry → Nat → Bool → Bool → Prop
  | create (hf : s.fsm = .init) : Ran s (SbEntry.created s.seqVar s.seqI) 0 s.rready s.wready
  | alloc (hf : s.fsm = .allocate) (a0 a1 : BitVec 4) :
    Ran s (allocated (s.entry s.seqI) s.params.offsetVariant s.seqVar a0 a1) (s.entry s.seqI).allocBits s.rready
      s.wready
  | select (hf : s.fsm = .scaleSelect) : Ran s (s.entry s.seqI) 0 s.rready s.wready
  | scale (hf : s.fsm = .scaleFactors) {x y : Chan} (hx : Rescaled (s.entry s.seqI).ch0 x)
    (hy : Rescaled (s.entry s.seqI).ch1 y) (hm : (s.entry s.seqI).var = .mono → y = (s.entry s.seqI).ch1) :
    Ran s { s.entry s.seqI with ch0 := x, ch1 := y } (s.entry s.seqI).scfBits s.rready s.wready
  | sample (hf : s.fsm = .sampleLoop) (hp : s.seqPh = .read) {x y : Chan} (hx : Resampled (s.entry s.seqI).ch0 x)
    (hy : Resampled (s.entry s.seqI).ch1 y) (hm : (s.entry s.seqI).var = .mono → y = (s.entry s.seqI).ch1) :
    Ran s (sampledEntry (s.entry s.seqI) x y) (readWidths (s.entry s.seqI)) (readReadyAt (s.entry s.seqI).gcnt)
      s.wready
  | put (hf : s.fsm = .sampleLoop) (hp : s.seqPh = .put) : Ran s (s.entry s.seqI) 0 s.rready true
  | synth (hf : s.fsm = .sampleLoop) (hp : s.seqPh = .synA ∨ s.seqPh = .synB) :
    Ran s (s.entry s.seqI) 0 s.rready s.wready

theorem ran_of_done {s m : State} {u : Instr} {c c' : UopCtx} (hu : s.nextUop = some u)
    (h : uopBody u c s = .done () c' m) : ∃ e k r w, Ran s e k r w ∧ Wrote s s.seqI e k r w m := by
  unfold State.nextUop at hu
  cases hf : s.fsm <;> simp only [hf] at hu
  case init => cases hu; exact ⟨_, _, _, _, .create hf, createSb_done h⟩
  case allocate =>
    cases hu
    obtain ⟨a0, a1, hw⟩ := alloc_done h
    exact ⟨_, _, _, _, .alloc hf a0 a1, hw⟩
  case scaleSelect =>
    cases hu
    cases scfsi_done h
    exact ⟨_, _, _, _, .select hf, .refl _ _⟩
  case scaleFactors =>
    cases hu
    obtain ⟨x, y, hx, hy, hm, hw⟩ := scf_done h
    exact ⟨_, _, _, _, .scale hf hx hy hm, hw⟩
  case sampleLoop =>
    cases hp : s.seqPh <;> simp only [hp] at hu <;> cases hu
    case read =>
      obtain ⟨x, y, hx, hy, hm, hw⟩ := sample_done h
      exact ⟨_, _, _, _, .sample hf hp hx hy hm, hw⟩
    case put => exact ⟨_, _, _, _, .put hf hp, put_done h⟩
    case synA => exact ⟨_, _, _, _, .synth hf (.inl hp), synth_done h⟩
    case synB => exact ⟨_, _, _, _, .synth hf (.inr hp), synth_done h⟩
  all_goals cases hu

/-- The registers that place a frame's uop: no uop writes them. -/
structure SamePlace (s t : State) : Prop where
  sel : t.sel = s.sel
  mode : t.mode = s.mode
  n : t.n = s.n
  b : t.b = s.b
  guard : t.guard = s.guard
  fsm : t.fsm = s.fsm
  seqI : t.seqI = s.seqI
  seqPh : t.seqPh = s.seqPh
  seqG : t.seqG = s.seqG

/-- Everything a uop of the sequencer can leave (43_frame_sequencer.md R164; 60_exceptions.md R204, R216; log 9):
it has completed, and SEQ has moved; or it has faulted; or it never ends; or it stands between its transactions. -/
theorem sequenced_cases {s : State} {u : Instr} (ho : s.outstanding = none) (hu : s.nextUop = some u) :
    (∃ e k r w m, Ran s e k r w ∧ Wrote s s.seqI e k r w m ∧ SamePlace s m ∧
      (s.partUop none u).afterUop = m.advance) ∨
    (s.partUop none u).afterUop.fsm = .error ∨
    (∃ x p, (s.partUop none u).afterUop = { s.withPorts p with outstanding := some x, inFlight := none }) ∨
    (∃ f p, (s.partUop none u).afterUop = { s.withPorts p with inFlight := some f }) := by
  rcases partUop_cases none u s with ⟨c', t, hx, h⟩ | ⟨t, hx, h⟩ | ⟨x, p, h⟩ | ⟨f, p, h⟩ <;> rw [h]
  · obtain ⟨e, k, r, w, hr, hw⟩ := ran_of_done hu hx
    have hc := (uopBody_keeps u (s.uopCtx (encode u)) s).settle
    rw [hx, Flow.settle_done] at hc
    refine .inl ⟨e, k, r, w, { t with inFlight := none }, hr, ?_, ?_, ?_⟩
    · exact ⟨hw.entry, hw.others, hw.bitcnt, hw.rready, hw.wready, hw.fsm, hw.outstanding, hw.params⟩
    · exact ⟨hc.sel, hc.mode, hc.n, hc.b, hc.guard, hw.fsm, hc.seqI, hc.seqPh, hc.seqG⟩
    · exact afterUop_of_ended (hw.outstanding.trans ho) rfl
  · have hf := (fault_of_stop hx).1
    refine .inr (.inl ?_)
    rw [afterUop_of_error (s := { t with inFlight := none }) hf]
    exact hf
  · exact .inr (.inr (.inl ⟨x, p, afterUop_of_outstanding (x := x) rfl⟩))
  · exact .inr (.inr (.inr ⟨f, p, afterUop_of_inFlight (f := f) rfl⟩))

/-! ## The invariant, SEQ and entries apart -/

/-- The frame invariant but for the entries: the header, SEQ, GUARD and the flags. -/
structure SeqInv (s : State) : Prop where
  header : frameValid s.mode s.n s.b = true
  index : s.seqI.toNat < s.n.toNat
  outside : s.fsm ≠ .sampleLoop → s.seqPh = .read ∧ s.seqG = 0#4
  granule : s.seqG.toNat < 12
  guarded : (s.fsm = .scaleFactors ∨ s.fsm = .sampleLoop) → s.guard = true
  unguarded : (s.fsm = .init ∨ s.fsm = .allocate ∨ s.fsm = .scaleSelect) → s.guard = false
  readFlag : s.fsm = .sampleLoop → s.seqPh ≠ .read → s.rready = decide (s.seqG.toNat = 11)
  writeFlag : s.seqPh = .synA ∨ s.seqPh = .synB → s.wready = true ∧ s.seqI.toNat + 1 = s.n.toNat
  filterB : s.seqPh = .synB → s.synthesizesB = true

/-- The frame invariant at entry j. -/
structure EntryInv (s : State) (j : SbIdx) : Prop where
  own : j.toNat < s.createdCount → s.OwnEntry j
  fresh : j.toNat < s.createdCount → s.BeforeAlloc j → s.entry j = SbEntry.created (varOfSubband s.mode s.b j) j
  rest : s.createdCount ≤ j.toNat → (s.entry j).valid = false
  lockstep : j.toNat < s.createdCount → (s.entry j).gcnt.toNat = s.granulesRead j

theorem frameRegs_iff (s : State) : s.FrameRegs ↔ SeqInv s ∧ ∀ j, EntryInv s j := by
  constructor
  · intro h
    exact ⟨⟨h.header, h.index, h.outside, h.granule, h.guarded, h.unguarded, h.readFlag, h.writeFlag, h.filterB⟩,
      fun j => ⟨h.own j, h.fresh j, h.rest j, h.lockstep j⟩⟩
  · rintro ⟨h, he⟩
    exact ⟨h.header, h.index, fun j => (he j).own, fun j => (he j).fresh, fun j => (he j).rest,
      fun j => (he j).lockstep, h.outside, h.granule, h.guarded, h.unguarded, h.readFlag, h.writeFlag, h.filterB⟩

theorem SeqInv.n_le {s : State} (h : SeqInv s) : s.n.toNat ≤ 32 := by
  have := h.header
  simp only [frameValid, Bool.and_eq_true, decide_eq_true_eq] at this
  exact this.1.2

/-! ## Where SEQ goes -/

/-- Everything the completion of a uop can do to SEQ while a frame is in progress (43_frame_sequencer.md R164, R167,
R169, R171, R173). -/
inductive Advances (s : State) : State → Prop
  | next (hi : s.seqI.toNat + 1 < s.n.toNat) (hp : s.fsm = .sampleLoop → s.seqPh = .read ∨ s.seqPh = .put) :
    Advances s s.nextSubband
  | toAllocate (hf : s.fsm = .init) (hi : s.seqI.toNat + 1 = s.n.toNat) :
    Advances s { s with fsm := .allocate, seqI := 0#5 }
  | toSelect (hf : s.fsm = .allocate) (hi : s.seqI.toNat + 1 = s.n.toNat) :
    Advances s { s with fsm := .scaleSelect, seqI := 0#5 }
  | pass (hf : s.fsm = .scaleSelect) (hi : s.seqI.toNat + 1 = s.n.toNat) :
    Advances s { s with guard := true, fsm := .scaleFactors, seqI := 0#5 }
  | mute (hf : s.fsm = .scaleSelect) (hi : s.seqI.toNat + 1 = s.n.toNat) :
    Advances s { s with guard := false, fsm := .done }
  | toLoop (hf : s.fsm = .scaleFactors) (hi : s.seqI.toNat + 1 = s.n.toNat) :
    Advances s { s with fsm := .sampleLoop, seqG := 0#4, seqPh := .read, seqI := 0#5 }
  | toPut (hf : s.fsm = .sampleLoop) (hp : s.seqPh = .read) (hi : s.seqI.toNat + 1 = s.n.toNat) :
    Advances s { s with seqPh := .put, seqI := 0#5 }
  | toSynA (hf : s.fsm = .sampleLoop) (hp : s.seqPh = .put) (hi : s.seqI.toNat + 1 = s.n.toNat) :
    Advances s { s with seqPh := .synA }
  | toSynB (hf : s.fsm = .sampleLoop) (hp : s.seqPh = .synA) (hb : s.synthesizesB = true) :
    Advances s { s with seqPh := .synB }
  | again (hf : s.fsm = .sampleLoop) (hp : s.seqPh = .synA ∨ s.seqPh = .synB) (hr : s.rready = false) :
    Advances s { s with seqG := s.seqG + 1#4, seqPh := .read, seqI := 0#5 }
  | finish (hf : s.fsm = .sampleLoop) (hp : s.seqPh = .synA ∨ s.seqPh = .synB) (hr : s.rready = true) :
    Advances s { s with seqG := s.seqG + 1#4, fsm := .done }

theorem advances_endPass {s : State} (h : SeqInv s) (hf : s.fsm = .sampleLoop)
    (hp : s.seqPh = .synA ∨ s.seqPh = .synB) : Advances s s.endPass := by
  unfold State.endPass
  rw [if_neg (by simp [(h.writeFlag hp).1])]
  split
  · exact .again hf hp ‹_›
  · exact .finish hf hp (by simpa using ‹¬ s.rready = false›)

theorem advances {s : State} (h : SeqInv s) (hb : s.busy = true) : Advances s s.advance := by
  have hlast (hl : s.atLastSubband = true) : s.seqI.toNat + 1 = s.n.toNat := by
    have := h.index
    have : s.n.toNat ≤ s.seqI.toNat + 1 := by simpa [State.atLastSubband] using hl
    omega
  have hmore (hl : ¬ s.atLastSubband = true) : s.seqI.toNat + 1 < s.n.toNat := by
    simpa [State.atLastSubband] using hl
  unfold State.advance
  cases hf : s.fsm <;> simp only
  case init =>
    split
    · exact .toAllocate hf (hlast ‹_›)
    · exact .next (hmore ‹_›) fun hs => by simp [hf] at hs
  case allocate =>
    split
    · exact .toSelect hf (hlast ‹_›)
    · exact .next (hmore ‹_›) fun hs => by simp [hf] at hs
  case scaleSelect =>
    split
    · unfold State.passGuard
      split
      · exact .pass hf (hlast ‹_›)
      · exact .mute hf (hlast ‹_›)
    · exact .next (hmore ‹_›) fun hs => by simp [hf] at hs
  case scaleFactors =>
    split
    · exact .toLoop hf (hlast ‹_›)
    · exact .next (hmore ‹_›) fun hs => by simp [hf] at hs
  case sampleLoop =>
    unfold State.advanceLoop
    cases hp : s.seqPh <;> simp only
    case read =>
      split
      · exact .toPut hf hp (hlast ‹_›)
      · exact .next (hmore ‹_›) fun _ => .inl hp
    case put =>
      split
      · exact .toSynA hf hp (hlast ‹_›)
      · exact .next (hmore ‹_›) fun _ => .inr hp
    case synA =>
      split
      · exact .toSynB hf hp ‹_›
      · exact advances_endPass h hf (.inl hp)
    case synB => exact advances_endPass h hf (.inr hp)
  all_goals simp [State.busy, Fsm.isBusy, hf] at hb

/-- Outside SAMPLELOOP no SYNTH is named. -/
theorem SeqInv.not_synth {s : State} (h : SeqInv s) (hf : s.fsm ≠ .sampleLoop) :
    ¬ (s.seqPh = .synA ∨ s.seqPh = .synB) := by
  simp [(h.outside hf).1]

theorem toNat_succ_seqI {s : State} (h : SeqInv s) (hi : s.seqI.toNat + 1 < s.n.toNat) :
    (s.seqI + 1#5).toNat = s.seqI.toNat + 1 := by
  have := h.n_le
  rw [BitVec.toNat_add]
  simp only [BitVec.toNat_ofNat]
  omega

theorem toNat_succ_seqG {s : State} (h : SeqInv s) : (s.seqG + 1#4).toNat = s.seqG.toNat + 1 := by
  have := h.granule
  rw [BitVec.toNat_add]
  simp only [BitVec.toNat_ofNat]
  omega

/-- SEQ, the guard and the flags are again as the sequencer will read them. -/
theorem Advances.seqInv {s t : State} (ha : Advances s t) (h : SeqInv s)
    (hread : s.fsm = .sampleLoop → s.seqPh = .read → s.seqI.toNat + 1 = s.n.toNat →
      s.rready = decide (s.seqG.toNat = 11))
    (hwrite : s.seqPh = .put → s.wready = true) (hb : t.busy = true) : SeqInv t := by
  have hpos : (0#5).toNat < s.n.toNat := Nat.lt_of_le_of_lt (Nat.zero_le _) h.index
  cases ha with
  | next hi hp =>
    refine ⟨h.header, by simpa [toNat_succ_seqI h hi] using hi, h.outside, h.granule, h.guarded, h.unguarded,
      h.readFlag, fun hs => ?_, h.filterB⟩
    by_cases hf : s.fsm = .sampleLoop
    · have hs : s.seqPh = .synA ∨ s.seqPh = .synB := hs
      rcases hp hf with hp | hp <;> simp [hp] at hs
    · exact absurd hs (h.not_synth hf)
  | toAllocate hf _ =>
    have hl : s.fsm ≠ .sampleLoop := by simp [hf]
    exact ⟨h.header, hpos, fun _ => h.outside hl, h.granule, by simp, fun _ => h.unguarded (.inl hf), by simp,
      fun hs => absurd hs (h.not_synth hl), h.filterB⟩
  | toSelect hf _ =>
    have hl : s.fsm ≠ .sampleLoop := by simp [hf]
    exact ⟨h.header, hpos, fun _ => h.outside hl, h.granule, by simp, fun _ => h.unguarded (.inr (.inl hf)),
      by simp, fun hs => absurd hs (h.not_synth hl), h.filterB⟩
  | pass hf _ =>
    have hl : s.fsm ≠ .sampleLoop := by simp [hf]
    exact ⟨h.header, hpos, fun _ => h.outside hl, h.granule, fun _ => rfl, by simp, by simp,
      fun hs => absurd hs (h.not_synth hl), h.filterB⟩
  | mute => cases hb
  | toLoop hf _ =>
    exact ⟨h.header, hpos, by simp, by simp, fun _ => h.guarded (.inl hf), by simp, by simp, by simp, by simp⟩
  | toPut hf hp hi =>
    exact ⟨h.header, hpos, fun hl => absurd hf hl, h.granule, h.guarded, h.unguarded, fun _ _ => hread hf hp hi,
      by simp, by simp⟩
  | toSynA hf hp hi =>
    exact ⟨h.header, h.index, fun hl => absurd hf hl, h.granule, h.guarded, h.unguarded,
      fun _ _ => h.readFlag hf (by simp [hp]), fun _ => ⟨hwrite hp, hi⟩, by simp⟩
  | toSynB hf hp hB =>
    exact ⟨h.header, h.index, fun hl => absurd hf hl, h.granule, h.guarded, h.unguarded,
      fun _ _ => h.readFlag hf (by simp [hp]), fun _ => h.writeFlag (.inl hp), fun _ => hB⟩
  | again hf hp hr =>
    have h11 : s.seqG.toNat ≠ 11 := by
      have := h.readFlag hf (by rcases hp with hp | hp <;> simp [hp])
      simpa [hr] using this
    have hg : (s.seqG + 1#4).toNat < 12 := by
      have := h.granule
      have := toNat_succ_seqG h
      omega
    exact ⟨h.header, hpos, fun hl => absurd hf hl, hg, h.guarded, h.unguarded, by simp, by simp, by simp⟩
  | finish => cases hb

/-! ## Where a subband stands in the schedule -/

theorem createdCount_init {s : State} (hf : s.fsm = .init) : s.createdCount = s.seqI.toNat := by
  simp [State.createdCount, hf]

theorem createdCount_later {s : State} (hf : s.fsm ≠ .init) : s.createdCount = s.n.toNat := by
  unfold State.createdCount
  split
  · exact absurd ‹_› hf
  · rfl

theorem granulesRead_outside {s : State} (hf : s.fsm ≠ .sampleLoop) (j : SbIdx) :
    s.granulesRead j = s.seqG.toNat % 12 := by
  have : (s.fsm == .sampleLoop) = false := by simpa using hf
  simp [State.granulesRead, State.sampledThisGranule, this]

theorem granulesRead_reading {s : State} (hf : s.fsm = .sampleLoop) (hp : s.seqPh = .read) (j : SbIdx) :
    s.granulesRead j = (s.seqG.toNat + if j.toNat < s.seqI.toNat then 1 else 0) % 12 := by
  have hs : s.sampledThisGranule j = decide (j.toNat < s.seqI.toNat) := by
    simp only [State.sampledThisGranule, hf, hp]; rfl
  rw [State.granulesRead, hs]
  split <;> simp [*]

theorem granulesRead_afterReads {s : State} (hf : s.fsm = .sampleLoop) (hp : s.seqPh ≠ .read) (j : SbIdx) :
    s.granulesRead j = (s.seqG.toNat + 1) % 12 := by
  have hr : (s.seqPh != .read) = true := by simpa using hp
  have hs : s.sampledThisGranule j = true := by
    simp only [State.sampledThisGranule, hf, hr]; rfl
  rw [State.granulesRead, hs, Bool.toNat_true]

/-- Subband j stands in the schedule at t where it stood at s. -/
structure SamePosition (s t : State) (j : SbIdx) : Prop where
  created : j.toNat < t.createdCount ↔ j.toNat < s.createdCount
  beforeAlloc : t.BeforeAlloc j → s.BeforeAlloc j
  granules : j.toNat < s.createdCount → t.granulesRead j = s.granulesRead j

/-- The uop that SEQ names moves no subband on in the schedule that is not its own, and none in SCALESELECT, in
SCALEFACTORS and in the phases after the reads. -/
theorem Advances.samePosition {s t : State} (ha : Advances s t) (h : SeqInv s) (hb : t.busy = true) {j : SbIdx}
    (hj : j ≠ s.seqI ∨ s.fsm = .scaleSelect ∨ s.fsm = .scaleFactors ∨ s.fsm = .sampleLoop ∧ s.seqPh ≠ .read) :
    SamePosition s t j := by
  have hne (hj : j ≠ s.seqI) : j.toNat ≠ s.seqI.toNat := fun he => hj (BitVec.eq_of_toNat_eq he)
  have later (hs : s.fsm ≠ .init) (ht : t.fsm ≠ .init) (hn : t.n = s.n) :
      j.toNat < t.createdCount ↔ j.toNat < s.createdCount := by
    rw [createdCount_later hs, createdCount_later ht, hn]
  have outside (hs : s.fsm ≠ .sampleLoop) (ht : t.fsm ≠ .sampleLoop) (hg : t.seqG = s.seqG) :
      t.granulesRead j = s.granulesRead j := by
    rw [granulesRead_outside hs, granulesRead_outside ht, hg]
  have after (hs : s.fsm = .sampleLoop) (hs' : s.seqPh ≠ .read) (ht : t.fsm = .sampleLoop) (ht' : t.seqPh ≠ .read)
      (hg : t.seqG = s.seqG) : t.granulesRead j = s.granulesRead j := by
    rw [granulesRead_afterReads hs hs', granulesRead_afterReads ht ht', hg]
  cases ha with
  | next hi hp =>
    have hsucc : s.nextSubband.seqI.toNat = s.seqI.toNat + 1 := toNat_succ_seqI h hi
    refine ⟨?_, ?_, fun _ => ?_⟩
    · by_cases hf : s.fsm = .init
      · have := hne (by simpa [hf] using hj)
        rw [createdCount_init hf, createdCount_init (s := s.nextSubband) hf, hsucc]
        omega
      · exact later hf hf rfl
    · rintro (hf | ⟨hf, hle⟩)
      · exact .inl hf
      · exact .inr ⟨hf, by omega⟩
    · by_cases hf : s.fsm = .sampleLoop
      · by_cases hr : s.seqPh = .read
        · have := hne (by simpa [hf, hr] using hj)
          rw [granulesRead_reading hf hr, granulesRead_reading (s := s.nextSubband) hf hr, hsucc]
          have hiff : j.toNat < s.seqI.toNat + 1 ↔ j.toNat < s.seqI.toNat := by omega
          simp only [hiff]
          rfl
        · exact after hf hr hf hr rfl
      · exact outside hf hf rfl
  | toAllocate hf hi =>
    refine ⟨?_, fun _ => .inl hf, fun _ => outside (by simp [hf]) (by simp) rfl⟩
    have := hne (by simpa [hf] using hj)
    rw [createdCount_init hf, createdCount_later (by simp)]
    show j.toNat < s.n.toNat ↔ _
    omega
  | toSelect hf _ =>
    exact ⟨later (by simp [hf]) (by simp) rfl, by simp [State.BeforeAlloc],
      fun _ => outside (by simp [hf]) (by simp) rfl⟩
  | pass hf _ =>
    exact ⟨later (by simp [hf]) (by simp) rfl, by simp [State.BeforeAlloc],
      fun _ => outside (by simp [hf]) (by simp) rfl⟩
  | mute => cases hb
  | toLoop hf _ =>
    refine ⟨later (by simp [hf]) (by simp) rfl, by simp [State.BeforeAlloc], fun _ => ?_⟩
    rw [granulesRead_outside (s := s) (by simp [hf]), (h.outside (by simp [hf])).2]
    exact granulesRead_reading rfl rfl j
  | toPut hf hp hi =>
    refine ⟨later (by simp [hf]) (by simp [hf]) rfl, by simp [State.BeforeAlloc, hf], fun hj' => ?_⟩
    have := hne (by simpa [hf, hp] using hj)
    rw [createdCount_later (by simp [hf])] at hj'
    rw [granulesRead_reading hf hp, if_pos (by omega)]
    refine granulesRead_afterReads ?_ ?_ j
    · exact hf
    · simp
  | toSynA hf hp _ =>
    exact ⟨later (by simp [hf]) (by simp [hf]) rfl, by simp [State.BeforeAlloc, hf],
      fun _ => after hf (by simp [hp]) hf (by simp) rfl⟩
  | toSynB hf hp _ =>
    exact ⟨later (by simp [hf]) (by simp [hf]) rfl, by simp [State.BeforeAlloc, hf],
      fun _ => after hf (by simp [hp]) hf (by simp) rfl⟩
  | again hf hp hr =>
    refine ⟨later (by simp [hf]) (by simp [hf]) rfl, by simp [State.BeforeAlloc, hf], fun _ => ?_⟩
    rw [granulesRead_afterReads hf (by rcases hp with hp | hp <;> simp [hp]), ← toNat_succ_seqG h]
    refine granulesRead_reading ?_ rfl j
    exact hf
  | finish => cases hb

/-- CREATE_SB makes its entry one of the frame's (43_frame_sequencer.md R163). -/
theorem Advances.created {s t : State} (ha : Advances s t) (h : SeqInv s) (hf : s.fsm = .init) :
    s.seqI.toNat < t.createdCount ∧ t.granulesRead s.seqI = 0 := by
  have hg : s.seqG.toNat % 12 = 0 := by simp [(h.outside (by simp [hf])).2]
  cases ha with
  | next hi _ =>
    rw [createdCount_init (s := s.nextSubband) hf, granulesRead_outside (s := s.nextSubband) (by simp [hf])]
    exact ⟨by rw [State.nextSubband_seqI, toNat_succ_seqI h hi]; omega, hg⟩
  | toAllocate =>
    rw [createdCount_later (by simp), granulesRead_outside (by simp)]
    exact ⟨h.index, hg⟩
  | _ => simp_all

/-- ALLOC takes its entry out of those still as created (43_frame_sequencer.md R164). -/
theorem Advances.allocated {s t : State} (ha : Advances s t) (h : SeqInv s) (hf : s.fsm = .allocate) :
    ¬ t.BeforeAlloc s.seqI ∧ s.seqI.toNat < t.createdCount ∧ t.granulesRead s.seqI = 0 := by
  have hg : s.seqG.toNat % 12 = 0 := by simp [(h.outside (by simp [hf])).2]
  cases ha with
  | next hi _ =>
    rw [createdCount_later (s := s.nextSubband) (by simp [hf]),
      granulesRead_outside (s := s.nextSubband) (by simp [hf])]
    refine ⟨?_, h.index, hg⟩
    simp [State.BeforeAlloc, hf, toNat_succ_seqI h hi]
  | toSelect =>
    rw [createdCount_later (by simp), granulesRead_outside (by simp)]
    exact ⟨by simp [State.BeforeAlloc], h.index, hg⟩
  | _ => simp_all

/-- SAMPLE puts its entry one granule ahead (41_subband_ops.md R124). -/
theorem Advances.sampled {s t : State} (ha : Advances s t) (h : SeqInv s) (hf : s.fsm = .sampleLoop)
    (hp : s.seqPh = .read) :
    ¬ t.BeforeAlloc s.seqI ∧ s.seqI.toNat < t.createdCount ∧ t.granulesRead s.seqI = (s.seqG.toNat + 1) % 12 := by
  cases ha with
  | next hi _ =>
    rw [createdCount_later (s := s.nextSubband) (by simp [hf]), granulesRead_reading (s := s.nextSubband) hf hp,
      State.nextSubband_seqI, toNat_succ_seqI h hi, if_pos (by omega)]
    exact ⟨by simp [State.BeforeAlloc, hf], h.index, rfl⟩
  | toPut =>
    rw [createdCount_later (by simp [hf])]
    refine ⟨by simp [State.BeforeAlloc, hf], h.index, granulesRead_afterReads ?_ ?_ s.seqI⟩
    · exact hf
    · simp
  | _ => simp_all

end Sys2Proof.Proofs
end

section
/-! PROOFS. Every step keeps the frame invariant (spec/10_state.md R29, R31; spec/41_subband_ops.md R111, R116,
R124; spec/43_frame_sequencer.md R162 to R172). -/

namespace Sys2Proof.Proofs
open Sys2Proof Sys2Proof.Machine

/-! ## The fields of an entry -/

theorem zero_allocated (p : OffsetVariant) : Chan.zero.Allocated p := by
  simp [Chan.Allocated, Chan.zero]

/-- ALLOC gives a channel as created the fields of its code (41_subband_ops.md R111). -/
theorem withAlloc_allocated (p : OffsetVariant) (a : BitVec 4) : (Chan.zero.withAlloc p a).Allocated p := by
  unfold Chan.withAlloc
  split
  · rename_i ha
    subst ha
    exact zero_allocated p
  · rename_i ha
    have hw : (widthOf a).toNat = a.toNat + 1 := by
      simp only [widthOf, BitVec.toNat_add, BitVec.toNat_setWidth, BitVec.toNat_ofNat]
      omega
    exact ⟨fun h => absurd h ha, fun _ => ⟨hw, rfl, rfl⟩, Nat.two_pow_pos _⟩

theorem withAlloc_scaled (p : OffsetVariant) (a : BitVec 4) : (Chan.zero.withAlloc p a).Scaled := by
  unfold Chan.withAlloc
  split <;> exact .inl ⟨rfl, rfl⟩

theorem Rescaled.a_eq {x y : Chan} (h : Rescaled x y) : y.a = x.a := by
  obtain rfl | ⟨code, rfl⟩ := h <;> rfl

theorem Resampled.a_eq {x y : Chan} (h : Resampled x y) : y.a = x.a := by
  obtain rfl | ⟨v, -, rfl⟩ := h <;> rfl

/-- The channel y is fit for a frame's entry if x is, and has its code. -/
structure StaysFit (p : OffsetVariant) (x y : Chan) : Prop where
  allocated : x.Allocated p → y.Allocated p
  scaled : x.Scaled → y.Scaled
  a : y.a = x.a

theorem Rescaled.staysFit {x y : Chan} (h : Rescaled x y) (p : OffsetVariant) : StaysFit p x y := by
  refine ⟨?_, ?_, h.a_eq⟩ <;> obtain rfl | ⟨code, rfl⟩ := h
  · exact id
  · exact id
  · exact id
  · exact fun _ => .inr rfl

/-- A W-bit sample is stored whole (10_state.md R29). -/
theorem Resampled.staysFit {x y : Chan} (h : Resampled x y) (p : OffsetVariant) : StaysFit p x y := by
  refine ⟨?_, ?_, h.a_eq⟩ <;> obtain rfl | ⟨v, hv, rfl⟩ := h
  · exact id
  · exact fun ⟨hzero, hcode, _⟩ => ⟨hzero, hcode, Nat.lt_of_le_of_lt (Nat.mod_le v (2 ^ 16)) hv⟩
  · exact id
  · exact id

theorem created_fieldsOf (v : Variant) (i : SbIdx) (p : OffsetVariant) : (SbEntry.created v i).FieldsOf p :=
  ⟨zero_allocated p, .inl ⟨rfl, rfl⟩, zero_allocated p, .inl ⟨rfl, rfl⟩, fun _ => rfl, fun _ => rfl⟩

theorem allocated_fieldsOf (v : Variant) (i : SbIdx) (p : OffsetVariant) (a0 a1 : BitVec 4) :
    (allocated (SbEntry.created v i) p v a0 a1).FieldsOf p := by
  refine ⟨withAlloc_allocated p a0, withAlloc_scaled p a0, ?_⟩
  cases v with
  | mono => exact ⟨zero_allocated p, .inl ⟨rfl, rfl⟩, fun _ => rfl, fun _ => rfl⟩
  | st => exact ⟨withAlloc_allocated p a1, withAlloc_scaled p a1, nofun, nofun⟩
  | is => exact ⟨zero_allocated p, .inl ⟨rfl, rfl⟩, fun _ => rfl, fun _ => rfl⟩

/-- Channels that stay fit keep the entry fit (10_state.md R31). -/
theorem fieldsOf_channels {e : SbEntry} {p : OffsetVariant} {x y : Chan} {g : BitVec 4} (he : e.FieldsOf p)
    (hx : StaysFit p e.ch0 x) (hy : StaysFit p e.ch1 y) (hm : e.var = .mono → y = e.ch1) :
    { e with ch0 := x, ch1 := y, gcnt := g }.FieldsOf p := by
  obtain ⟨ha0, hs0, ha1, hs1, hmono, his⟩ := he
  exact ⟨hx.allocated ha0, hx.scaled hs0, hy.allocated ha1, hy.scaled hs1, fun hv => (hm hv).trans (hmono hv),
    fun hv => hy.a.trans (his hv)⟩

/-! ## The granule counter -/

theorem toNat_nextGcnt {g : BitVec 4} (h : g.toNat < 12) : (nextGcnt g).toNat = (g.toNat + 1) % 12 := by
  have hs : (g + 1#4).toNat = g.toNat + 1 := by
    simp only [BitVec.toNat_add, BitVec.toNat_ofNat]
    omega
  unfold nextGcnt
  split
  · rename_i h12
    rw [h12] at hs
    rw [← hs]
    rfl
  · rename_i h12
    rw [hs]
    have : g.toNat + 1 ≠ 12 := fun h => h12 (BitVec.eq_of_toNat_eq (hs.trans h))
    omega

theorem readReadyAt_eq {g : BitVec 4} (h : g.toNat < 12) : readReadyAt g = decide (g.toNat = 11) := by
  have hs : (g + 1#4).toNat = g.toNat + 1 := by
    simp only [BitVec.toNat_add, BitVec.toNat_ofNat]
    omega
  have hiff : g + 1#4 = 12#4 ↔ g.toNat = 11 := by
    rw [← BitVec.toNat_inj, hs]
    simp
  rw [readReadyAt, Bool.eq_iff_iff]
  simp [hiff]

/-! ## A completed uop of the sequencer -/

/-- What the frame invariant says of the entry that SEQ names, once it exists. -/
theorem own_seqI {s : State} (h : s.FrameRegs) (hf : s.fsm ≠ .init) :
    s.OwnEntry s.seqI ∧ (s.BeforeAlloc s.seqI → s.entry s.seqI = SbEntry.created s.seqVar s.seqI) ∧
      (s.entry s.seqI).gcnt.toNat = s.granulesRead s.seqI := by
  have hi : s.seqI.toNat < s.createdCount := by rw [createdCount_later hf]; exact h.index
  exact ⟨h.own _ hi, h.fresh _ hi, h.lockstep _ hi⟩

/-- Before the granule's SAMPLE an entry has counted SEQ_G granules (41_subband_ops.md R124). -/
theorem gcnt_seqI {s : State} (h : s.FrameRegs) (hf : s.fsm = .sampleLoop) (hp : s.seqPh = .read) :
    (s.entry s.seqI).gcnt.toNat = s.seqG.toNat := by
  obtain ⟨-, -, hg⟩ := own_seqI h (by simp [hf])
  rw [hg, granulesRead_reading hf hp, if_neg (by omega)]
  exact Nat.mod_eq_of_lt h.granule

/-- No register that places SEQ has changed, so every subband stands where it stood. -/
theorem SamePlace.samePosition {s m : State} (hp : SamePlace s m) (j : SbIdx) : SamePosition s m j := by
  have hc : m.createdCount = s.createdCount := by simp only [State.createdCount, hp.fsm, hp.seqI, hp.n]
  have hg : m.granulesRead j = s.granulesRead j := by
    simp only [State.granulesRead, State.sampledThisGranule, hp.fsm, hp.seqI, hp.seqPh, hp.seqG]
  exact ⟨by rw [hc], by simp only [State.BeforeAlloc, hp.fsm, hp.seqI]; exact id, fun _ => hg⟩

theorem SamePosition.trans {s t u : State} {j : SbIdx} (h : SamePosition s t j) (h' : SamePosition t u j) :
    SamePosition s u j :=
  ⟨h'.created.trans h.created, fun hu => h.beforeAlloc (h'.beforeAlloc hu),
    fun hj => (h'.granules (h.created.mpr hj)).trans (h.granules hj)⟩

/-- The registers that say which variant and which ROM an entry of the frame has. -/
structure SameFrame (s t : State) : Prop where
  mode : t.mode = s.mode
  b : t.b = s.b
  params : t.params = s.params

/-- An entry that is as it was and stands where it stood. -/
theorem EntryInv.of_same {s t : State} {j : SbIdx} (h : EntryInv s j) (hf : SameFrame s t)
    (hpos : SamePosition s t j) (he : t.entry j = s.entry j) : EntryInv t j := by
  refine ⟨fun hj => ?_, fun hj ha => ?_, fun hj => ?_, fun hj => ?_⟩
  · simpa only [State.OwnEntry, he, hf.mode, hf.b, hf.params] using h.own (hpos.created.mp hj)
  · rw [he, hf.mode, hf.b]
    exact h.fresh (hpos.created.mp hj) (hpos.beforeAlloc ha)
  · rw [he]
    exact h.rest (Nat.le_of_not_lt fun hs => absurd (hpos.created.mpr hs) (Nat.not_lt_of_le hj))
  · rw [he, hpos.granules (hpos.created.mp hj)]
    exact h.lockstep (hpos.created.mp hj)

/-- An entry that has just been written. -/
theorem EntryInv.of_written {t : State} {j : SbIdx} {e : SbEntry} (he : t.entry j = e)
    (hj : j.toNat < t.createdCount) (hvalid : e.valid = true) (hvar : e.var = varOfSubband t.mode t.b j)
    (hfields : e.FieldsOf t.params.offsetVariant)
    (hfresh : t.BeforeAlloc j → e = SbEntry.created (varOfSubband t.mode t.b j) j)
    (hg : e.gcnt.toNat = t.granulesRead j) : EntryInv t j := by
  subst he
  exact ⟨fun _ => ⟨hvalid, hvar, hfields⟩, fun _ => hfresh, fun h => absurd hj (Nat.not_lt_of_le h), fun _ => hg⟩

theorem Advances.sameFrame {s t : State} (ha : Advances s t) : SameFrame s t := by
  cases ha <;> exact ⟨rfl, rfl, rfl⟩

theorem Advances.entry {s t : State} (ha : Advances s t) (j : SbIdx) : t.entry j = s.entry j := by
  cases ha <;> rfl

section Completed
variable {s m t : State} {e : SbEntry} {k : Nat} {r w : Bool} (h : s.FrameRegs) (hr : Ran s e k r w)
  (hw : Wrote s s.seqI e k r w m) (hp : SamePlace s m)
include h hr hw hp

/-- Before SEQ moves, the flags are those the invariant asks for: RREADY changes in the reads alone, WREADY in the
PUTs. -/
theorem seqInv_completed : SeqInv m := by
  have hs := ((frameRegs_iff s).mp h).1
  have flags (hread : m.seqPh ≠ .read → m.rready = s.rready)
      (hwrite : m.seqPh = .synA ∨ m.seqPh = .synB → m.wready = s.wready) : SeqInv m := by
    constructor
    case header => rw [hp.mode, hp.n, hp.b]; exact hs.header
    case index => rw [hp.seqI, hp.n]; exact hs.index
    case outside => rw [hp.fsm, hp.seqPh, hp.seqG]; exact hs.outside
    case granule => rw [hp.seqG]; exact hs.granule
    case guarded => rw [hp.fsm, hp.guard]; exact hs.guarded
    case unguarded => rw [hp.fsm, hp.guard]; exact hs.unguarded
    case readFlag =>
      intro hf hn
      rw [hread hn, hp.seqG]
      exact hs.readFlag (hp.fsm.symm.trans hf) (hp.seqPh ▸ hn)
    case writeFlag =>
      intro hn
      rw [hwrite hn, hp.seqI, hp.n]
      exact hs.writeFlag (hp.seqPh ▸ hn)
    case filterB =>
      intro hn
      rw [State.synthesizesB, hp.sel, hp.mode]
      exact hs.filterB (hp.seqPh ▸ hn)
  cases hr with
  | sample _ hread => exact flags (fun hn => by simp [hp.seqPh, hread] at hn) fun _ => hw.wready
  | put _ hput => exact flags (fun _ => hw.rready) fun hn => by simp [hp.seqPh, hput] at hn
  | _ => exact flags (fun _ => hw.rready) fun _ => hw.wready

theorem sampled_rready (hf : s.fsm = .sampleLoop) (hph : s.seqPh = .read) :
    m.rready = decide (m.seqG.toNat = 11) := by
  have hg := gcnt_seqI h hf hph
  have hlt := h.granule
  cases hr with
  | sample => rw [hw.rready, readReadyAt_eq (by omega), hg, hp.seqG]
  | _ => simp_all

omit h hp in
theorem put_wready (hf : s.fsm = .sampleLoop) (hph : s.seqPh = .put) : m.wready = true := by
  cases hr with
  | put => exact hw.wready
  | _ => simp_all

/-- The entry that the uop has served is what the schedule has made it. -/
theorem entryInv_seqI (ha : Advances m t) (hb : t.busy = true) : EntryInv t s.seqI := by
  have hs := ((frameRegs_iff s).mp h).2
  have hm := seqInv_completed h hr hw hp
  have hfr : SameFrame s t :=
    ⟨ha.sameFrame.mode.trans hp.mode, ha.sameFrame.b.trans hp.b, ha.sameFrame.params.trans hw.params⟩
  have he : t.entry s.seqI = e := (ha.entry _).trans hw.entry
  have hv : varOfSubband t.mode t.b s.seqI = s.seqVar := by rw [hfr.mode, hfr.b]; rfl
  have stays (hc : m.fsm = .scaleSelect ∨ m.fsm = .scaleFactors ∨ m.fsm = .sampleLoop ∧ m.seqPh ≠ .read) :
      SamePosition s t s.seqI := (hp.samePosition _).trans (ha.samePosition hm hb (.inr hc))
  cases hr with
  | create hf =>
    obtain ⟨hj, hg⟩ := hp.seqI ▸ ha.created hm (hp.fsm.trans hf)
    exact .of_written he hj rfl hv.symm (created_fieldsOf _ _ _) (fun _ => by rw [hv]) hg.symm
  | alloc hf a0 a1 =>
    obtain ⟨hb', hj, hg⟩ := hp.seqI ▸ ha.allocated hm (hp.fsm.trans hf)
    have hfresh := (own_seqI h (by simp [hf])).2.1 (.inr ⟨hf, le_rfl⟩)
    rw [hfresh] at he
    refine .of_written he hj rfl hv.symm ?_ (fun ht => absurd ht hb') hg.symm
    rw [hfr.params]
    exact allocated_fieldsOf _ _ _ a0 a1
  | select hf => exact (hs _).of_same hfr (stays (.inl (hp.fsm.trans hf))) he
  | scale hf hx hy hmono =>
    have hpos := stays (.inr (.inl (hp.fsm.trans hf)))
    obtain ⟨⟨hvalid, hvar, hfields⟩, -, hg⟩ := own_seqI h (by simp [hf])
    have hj : s.seqI.toNat < s.createdCount := by rw [createdCount_later (by simp [hf])]; exact h.index
    refine .of_written he (hpos.created.mpr hj) hvalid (hvar.trans hv.symm) ?_
      (fun ht => ?_) (hg.trans (hpos.granules hj).symm)
    · rw [hfr.params]
      exact fieldsOf_channels hfields (hx.staysFit _) (hy.staysFit _) hmono
    · have := hpos.beforeAlloc ht
      simp [State.BeforeAlloc, hf] at this
  | sample hf hph hx hy hmono =>
    obtain ⟨hb', hj, hg⟩ := hp.seqI ▸ ha.sampled hm (hp.fsm.trans hf) (hp.seqPh.trans hph)
    obtain ⟨⟨hvalid, hvar, hfields⟩, -, -⟩ := own_seqI h (by simp [hf])
    have hcount := gcnt_seqI h hf hph
    refine .of_written he hj hvalid (hvar.trans hv.symm) ?_ (fun ht => absurd ht hb') ?_
    · rw [hfr.params]
      exact fieldsOf_channels hfields (hx.staysFit _) (hy.staysFit _) hmono
    · rw [hg, hp.seqG, ← hcount]
      exact toNat_nextGcnt (by have := h.granule; omega)
  | put hf hph => exact (hs _).of_same hfr (stays (.inr (.inr ⟨hp.fsm.trans hf, by simp [hp.seqPh, hph]⟩))) he
  | synth hf hph =>
    refine (hs _).of_same hfr (stays (.inr (.inr ⟨hp.fsm.trans hf, ?_⟩))) he
    rcases hph with hph | hph <;> simp [hp.seqPh, hph]

/-- A completed uop of the sequencer keeps the frame's registers as the schedule makes them. -/
theorem frameRegs_completed (hb : s.busy = true) (hb' : m.advance.busy = true) : m.advance.FrameRegs := by
  have hm := seqInv_completed h hr hw hp
  have ha := advances hm (by rw [State.busy, hp.fsm]; exact hb)
  refine (frameRegs_iff _).mpr ⟨ha.seqInv hm ?_ ?_ hb', fun j => ?_⟩
  · intro hf hph _
    exact sampled_rready h hr hw hp (hp.fsm.symm.trans hf) (hp.seqPh.symm.trans hph)
  · intro hph
    have hf : s.fsm = .sampleLoop := by
      by_contra hf
      simp [hp.seqPh ▸ (h.outside hf).1] at hph
    exact put_wready hr hw hf (hp.seqPh.symm.trans hph)
  by_cases hj : j = s.seqI
  · subst hj
    exact entryInv_seqI h hr hw hp ha hb'
  · have hpos := (hp.samePosition j).trans (ha.samePosition hm hb' (.inl (hp.seqI.symm ▸ hj)))
    refine (((frameRegs_iff s).mp h).2 j).of_same ?_ hpos ((ha.entry j).trans (hw.others j hj))
    exact ⟨ha.sameFrame.mode.trans hp.mode, ha.sameFrame.b.trans hp.b, ha.sameFrame.params.trans hw.params⟩

end Completed

/-! ## Every step -/

/-- The registers of s, with the host's signals, the grain, the ports and the uop begun of x. -/
def inSurroundings (s x : State) : State :=
  { s with
    outstanding := x.outstanding, inFlight := x.inFlight, pins := x.pins, inputs := x.inputs, budget := x.budget
    br := x.br, crc := x.crc, fa := x.fa, fb := x.fb, trace := x.trace }

theorem sampleInputs_inSurroundings (s : State) : s.sampleInputs = inSurroundings s s.sampleInputs := by
  unfold State.sampleInputs
  cases s.inputs <;> rfl

theorem frameRegs_inSurroundings {s : State} (h : s.FrameRegs) (x : State) : (inSurroundings s x).FrameRegs :=
  ⟨h.header, h.index, h.own, h.fresh, h.rest, h.lockstep, h.outside, h.granule, h.guarded, h.unguarded, h.readFlag,
    h.writeFlag, h.filterB⟩

/-- The frame that DECODE starts: no entry exists yet (43_frame_sequencer.md R161, R162). -/
theorem frameRegs_startFrame {s : State} (hv : frameValid s.pins.hdr.mode s.pins.hdr.n s.pins.hdr.b = true) :
    s.startFrame.FrameRegs := by
  have hn : 0 < s.pins.hdr.n.toNat := by
    simp only [frameValid, Bool.and_eq_true, decide_eq_true_eq] at hv
    exact hv.1.1
  refine (frameRegs_iff _).mpr ⟨⟨hv, hn, fun _ => ⟨rfl, rfl⟩, ?_, ?_, fun _ => rfl, nofun, nofun, nofun⟩, fun j => ?_⟩
  · simp
  · rintro (h | h) <;> cases h
  · exact ⟨nofun, nofun, fun _ => by rw [entry_startFrame], nofun⟩

/-- Each way of a step that the sequencer takes keeps the frame invariant. -/
theorem frameInv_runSampled {s t : State} (hs : s.FrameInv) (hd : s.drivenWord = none)
    (h : runSampled s = .next t) : t.FrameInv := by
  intro hb ho
  rcases runSampled_cases h with ⟨-, rfl⟩ | ⟨-, rfl⟩ | ⟨w, hw, -⟩ | ⟨u, hout, hu, rfl⟩ | ⟨w, -, h⟩
  · cases hb
  · exact hs hb ho
  · rw [hd] at hw; cases hw
  · have hbs := busy_of_nextUop hu
    have hreg := hs hbs hout
    rcases sequenced_cases hout hu with ⟨e, k, r, w, m, hr, hw, hp, h⟩ | h | ⟨x, p, h⟩ | ⟨f, p, h⟩
    · rw [h] at hb ⊢
      exact frameRegs_completed hreg hr hw hp hbs hb
    · simp [State.busy, h, Fsm.isBusy] at hb
    · rw [h] at ho; cases ho
    · rw [h]
      exact frameRegs_inSurroundings hreg { s.withPorts p with inFlight := some f }
  · rcases acceptWord_cases h with ⟨x, v, rfl⟩ | ⟨sel, crc, rfl⟩ | ⟨hv, rfl⟩ | ⟨x, v, rfl⟩
    · cases hb
    · cases hb
    · exact frameRegs_startFrame hv
    · cases hb

theorem frameInv_sampleInputs {s : State} (h : s.FrameInv) : s.sampleInputs.FrameInv := by
  have he := sampleInputs_inSurroundings s
  have ho : s.sampleInputs.outstanding = s.outstanding := by rw [s.sampleInputs_eq]
  intro hb hout
  rw [he] at hb ⊢
  exact frameRegs_inSurroundings (h hb (ho.symm.trans hout)) _

/-- Settles O51: the signals sampled, each way of the step keeps the invariant. -/
theorem everyStepKeepsFrameInv : Obligations.EveryStepKeepsFrameInv := fun _ _ hs hm h =>
  frameInv_runSampled (frameInv_sampleInputs hs) hm h

end Sys2Proof.Proofs
end

section
/-! PROOFS. Every step keeps BITCNT equal to the bits of the fields before SEQ (spec/30_encoding.md R85;
spec/10_state.md R35; spec/43_frame_sequencer.md R175). -/

namespace Sys2Proof.Proofs
open Sys2Proof Sys2Proof.Machine

/-! ## Sums over the entries -/

theorem sumEntries_zero (s : State) (f : SbEntry → Nat) : s.sumEntries f 0 = 0 := rfl

theorem sumEntries_succ (s : State) (f : SbEntry → Nat) (i : SbIdx) :
    s.sumEntries f (i.toNat + 1) = s.sumEntries f i.toNat + f (s.entry i) := by
  simp [State.sumEntries, subbands, List.range_succ]

/-- The sum looks at the first k entries only. -/
theorem sumEntries_congr {s t : State} {f : SbEntry → Nat} {k : Nat} (hk : k ≤ 32)
    (h : ∀ j : SbIdx, j.toNat < k → f (t.entry j) = f (s.entry j)) : t.sumEntries f k = s.sumEntries f k := by
  unfold State.sumEntries subbands
  rw [List.map_map, List.map_map]
  refine congrArg List.sum (List.map_congr_left fun j hj => ?_)
  have hj := List.mem_range.mp hj
  exact h _ (by rw [BitVec.toNat_ofNat]; omega)

theorem sumEntries_le {s : State} {f : SbEntry → Nat} {c : Nat} (hf : ∀ e, f e ≤ c) (k : Nat) :
    s.sumEntries f k ≤ k * c := by
  have h := List.sum_le_card_nsmul ((subbands k).map fun i => f (s.entry i)) c (by simp [hf])
  simpa [State.sumEntries, subbands] using h

theorem allocBits_le (e : SbEntry) : e.allocBits ≤ 8 := by
  unfold SbEntry.allocBits; split <;> omega

theorem nonzeroCode_le (a : BitVec 4) : nonzeroCode a ≤ 1 := by
  unfold nonzeroCode; split <;> omega

theorem scfBits_le (e : SbEntry) : e.scfBits ≤ 12 := by
  have h0 := nonzeroCode_le e.ch0.a
  have h1 := nonzeroCode_le e.ch1.a
  unfold SbEntry.scfBits; split <;> omega

theorem bitsOfCode_le (a : BitVec 4) : bitsOfCode a ≤ 16 := by
  unfold bitsOfCode; split <;> omega

theorem sampleBits_le (e : SbEntry) : e.sampleBits ≤ 32 := by
  have h0 := bitsOfCode_le e.ch0.a
  have h1 := bitsOfCode_le e.ch1.a
  unfold SbEntry.sampleBits; split <;> omega

/-- The bits of an entry depend on its variant and its codes alone. -/
theorem scfBits_congr {e e' : SbEntry} (hv : e'.var = e.var) (h0 : e'.ch0.a = e.ch0.a) (h1 : e'.ch1.a = e.ch1.a) :
    e'.scfBits = e.scfBits := by
  simp only [SbEntry.scfBits, hv, h0, h1]

theorem sampleBits_congr {e e' : SbEntry} (hv : e'.var = e.var) (h0 : e'.ch0.a = e.ch0.a)
    (h1 : e'.ch1.a = e.ch1.a) : e'.sampleBits = e.sampleBits := by
  simp only [SbEntry.sampleBits, hv, h0, h1]

theorem readWidth_eq {x : Chan} {p : OffsetVariant} (h : x.Allocated p) : readWidth x = bitsOfCode x.a := by
  unfold readWidth bitsOfCode
  split
  · rfl
  · exact (h.2.1 ‹_›).1

/-- SAMPLE asks for the bits that R85 counts, for W is the code and one (10_state.md R29). -/
theorem readWidths_eq {e : SbEntry} {p : OffsetVariant} (h : e.FieldsOf p) : readWidths e = e.sampleBits := by
  obtain ⟨h0, -, h1, -, -, -⟩ := h
  simp only [readWidths, SbEntry.sampleBits, readWidth_eq h0, readWidth_eq h1]
  cases e.var <;> rfl

/-! ## The bits up to and with the uop that SEQ names -/

/-- The bits consumed once the uop that SEQ names has completed, before SEQ moves (30_encoding.md R80, R85). -/
def bitsThrough (s : State) : Nat :=
  match s.fsm with
  | .allocate => s.sumEntries SbEntry.allocBits (s.seqI.toNat + 1)
  | .scaleSelect => s.sumEntries SbEntry.allocBits s.n.toNat
  | .scaleFactors =>
    s.sumEntries SbEntry.allocBits s.n.toNat + s.sumEntries SbEntry.scfBits (s.seqI.toNat + 1)
  | .sampleLoop =>
    s.sumEntries SbEntry.allocBits s.n.toNat + s.sumEntries SbEntry.scfBits s.n.toNat +
    s.seqG.toNat * s.sumEntries SbEntry.sampleBits s.n.toNat +
    s.sumEntries SbEntry.sampleBits (if s.seqPh = .read then s.seqI.toNat + 1 else s.n.toNat)
  | _ => 0

/-- BITCNT cannot wrap: a frame has fewer than 2^32 bits. -/
theorem bitsThrough_lt (s : State) : bitsThrough s < 2 ^ 32 := by
  have ha (k : Nat) := sumEntries_le (s := s) allocBits_le k
  have hs (k : Nat) := sumEntries_le (s := s) scfBits_le k
  have hm (k : Nat) := sumEntries_le (s := s) sampleBits_le k
  have hn := s.n.isLt
  have hi := s.seqI.isLt
  unfold bitsThrough
  split
  · have := ha (s.seqI.toNat + 1)
    omega
  · have := ha s.n.toNat
    omega
  · have := ha s.n.toNat
    have := hs (s.seqI.toNat + 1)
    omega
  · have hg : s.seqG.toNat * s.sumEntries SbEntry.sampleBits s.n.toNat ≤ 16 * (64 * 32) :=
      Nat.mul_le_mul (by omega) ((hm _).trans (by omega))
    have hp : (if s.seqPh = .read then s.seqI.toNat + 1 else s.n.toNat) ≤ 64 := by split <;> omega
    have := ha s.n.toNat
    have := hs s.n.toNat
    have := hm (if s.seqPh = .read then s.seqI.toNat + 1 else s.n.toNat)
    omega
  · omega

theorem bitsThrough_afterReads {s : State} (hf : s.fsm = .sampleLoop) (hp : s.seqPh ≠ .read) :
    bitsThrough s = s.sumEntries SbEntry.allocBits s.n.toNat + s.sumEntries SbEntry.scfBits s.n.toNat +
      s.seqG.toNat * s.sumEntries SbEntry.sampleBits s.n.toNat + s.sumEntries SbEntry.sampleBits s.n.toNat := by
  simp only [bitsThrough, hf, if_neg hp]

/-- SEQ's move counts nothing: what is consumed through one uop is consumed before the next (43_frame_sequencer.md
R175). -/
theorem Advances.bitsSoFar {s t : State} (ha : Advances s t) (h : SeqInv s) (hb : s.busy = true) :
    t.bitsSoFar = bitsThrough s := by
  cases ha with
  | next hi hp =>
    have hsucc := toNat_succ_seqI h hi
    have hsum (f : SbEntry → Nat) (k : Nat) : s.nextSubband.sumEntries f k = s.sumEntries f k := rfl
    cases hf : s.fsm
    case sampleLoop =>
      rcases hp hf with hph | hph <;> simp [State.bitsSoFar, bitsThrough, hf, hph, hsum, hsucc]
    case done => simp [State.busy, Fsm.isBusy, hf] at hb
    all_goals simp [State.bitsSoFar, bitsThrough, hf, hsum, hsucc]
  | toAllocate hf _ => simp [State.bitsSoFar, bitsThrough, hf, sumEntries_zero]
  | toSelect hf hi => simp only [State.bitsSoFar, bitsThrough, hf, hi]; rfl
  | pass hf _ => simp only [State.bitsSoFar, bitsThrough, hf]; rfl
  | mute hf _ => simp only [State.bitsSoFar, bitsThrough, hf]; rfl
  | toLoop hf hi =>
    simp [State.bitsSoFar, bitsThrough, hf, hi, sumEntries_zero]
    rfl
  | toPut hf hp hi =>
    simp [State.bitsSoFar, bitsThrough, hf, hp, hi]
    rfl
  | toSynA hf hp _ =>
    simp [State.bitsSoFar, bitsThrough, hf, hp]
    rfl
  | toSynB hf hp _ =>
    simp [State.bitsSoFar, bitsThrough, hf, hp]
    rfl
  | again hf hp hr =>
    have hph : s.seqPh ≠ .read := by rcases hp with hp | hp <;> simp [hp]
    have hthrough := bitsThrough_afterReads hf hph
    have hsofar : State.bitsSoFar { s with seqG := s.seqG + 1#4, seqPh := .read, seqI := 0#5 } =
        s.sumEntries SbEntry.allocBits s.n.toNat + s.sumEntries SbEntry.scfBits s.n.toNat +
          (s.seqG + 1#4).toNat * s.sumEntries SbEntry.sampleBits s.n.toNat := by
      simp only [State.bitsSoFar, hf]
      rfl
    rw [hthrough, hsofar, toNat_succ_seqG h]
    ring
  | finish hf hp hr =>
    have hph : s.seqPh ≠ .read := by rcases hp with hp | hp <;> simp [hp]
    have h11 : s.seqG.toNat = 11 := by simpa [hr] using h.readFlag hf hph
    have hthrough := bitsThrough_afterReads hf hph
    have hsofar : State.bitsSoFar { s with seqG := s.seqG + 1#4, fsm := .done } =
        s.sumEntries SbEntry.allocBits s.n.toNat +
          (s.sumEntries SbEntry.scfBits s.n.toNat + 12 * s.sumEntries SbEntry.sampleBits s.n.toNat) := by
      simp only [State.bitsSoFar, State.frameBits, h.guarded (.inr hf)]
      rfl
    rw [hthrough, hsofar, h11]
    ring

/-- The uop that completes adds its own bits to those before it. -/
theorem bitsThrough_completed {s m : State} {e : SbEntry} {k : Nat} {r w : Bool} (h : s.FrameRegs)
    (hr : Ran s e k r w) (hw : Wrote s s.seqI e k r w m) (hp : SamePlace s m) :
    bitsThrough m = s.bitsSoFar + k := by
  have hs := ((frameRegs_iff s).mp h).1
  have hn := hs.n_le
  have hi := h.index
  have sums {f : SbEntry → Nat} (hf : f e = f (s.entry s.seqI)) {n : Nat} (hn : n ≤ 32) :
      m.sumEntries f n = s.sumEntries f n :=
    sumEntries_congr hn fun j _ => by
      by_cases hj : j = s.seqI
      · rw [hj, hw.entry, hf]
      · rw [hw.others j hj]
  unfold bitsThrough State.bitsSoFar
  rw [hp.fsm, hp.seqI, hp.n, hp.seqG, hp.seqPh]
  cases hr with
  | create hf => simp [hf]
  | alloc hf a0 a1 =>
    simp only [hf]
    rw [sums rfl (by omega), sumEntries_succ]
  | select hf =>
    simp only [hf]
    rw [sums rfl hn]
    rfl
  | scale hf hx hy hm =>
    simp only [hf]
    rw [sums rfl hn, sums (f := SbEntry.scfBits) (scfBits_congr rfl hx.a_eq hy.a_eq) (by omega), sumEntries_succ,
      Nat.add_assoc]
  | sample hf hph hx hy hm =>
    obtain ⟨⟨-, -, hfields⟩, -, -⟩ := own_seqI h (by simp [hf])
    have hsample {n : Nat} (hn : n ≤ 32) : m.sumEntries SbEntry.sampleBits n = s.sumEntries SbEntry.sampleBits n :=
      sums (sampleBits_congr rfl hx.a_eq hy.a_eq) hn
    simp only [hf, hph, if_pos]
    rw [sums rfl hn, sums (f := SbEntry.scfBits) (scfBits_congr rfl hx.a_eq hy.a_eq) hn, hsample hn,
      hsample (by omega), sumEntries_succ, readWidths_eq hfields]
    omega
  | put hf hph =>
    have hread : s.seqPh ≠ .read := by simp [hph]
    simp only [hf, if_neg hread]
    rw [sums rfl hn, sums rfl hn, sums rfl hn]
    rfl
  | synth hf hph =>
    have hread : s.seqPh ≠ .read := by rcases hph with hph | hph <;> simp [hph]
    simp only [hf, if_neg hread]
    rw [sums rfl hn, sums rfl hn, sums rfl hn]
    rfl

/-! ## Every step -/

/-- BITCNT after a completed uop (10_state.md R35). -/
theorem bitcnt_completed {s m : State} {e : SbEntry} {k : Nat} {r w : Bool} (h : s.FrameRegs)
    (hr : Ran s e k r w) (hw : Wrote s s.seqI e k r w m) (hp : SamePlace s m) (hb : s.busy = true)
    (hc : s.bitcnt.toNat = s.bitsSoFar) : m.advance.bitcnt.toNat = m.advance.bitsSoFar := by
  have hm := seqInv_completed h hr hw hp
  have hbm : m.busy = true := by rw [State.busy, hp.fsm]; exact hb
  have hlt := bitsThrough_lt m
  rw [(advances hm hbm).bitsSoFar hm hbm]
  rw [bitsThrough_completed h hr hw hp] at hlt ⊢
  rw [advance_bitcnt, hw.bitcnt, BitVec.toNat_add, BitVec.toNat_ofNat, hc]
  omega

/-- Each way of a step that the sequencer takes keeps the accounting. -/
theorem bitsAccounted_runSampled {s t : State} (hs : s.FrameInv) (hc : s.BitsAccounted) (hd : s.drivenWord = none)
    (h : runSampled s = .next t) : t.BitsAccounted := by
  intro hb
  rcases runSampled_cases h with ⟨-, rfl⟩ | ⟨-, rfl⟩ | ⟨w, hw, -⟩ | ⟨u, hout, hu, rfl⟩ | ⟨w, -, h⟩
  · simp [State.busy, Fsm.isBusy, State.applyReset, State.reset] at hb
  · exact hc hb
  · rw [hd] at hw; cases hw
  · have hbs := busy_of_nextUop hu
    have hcs := hc (.inl ⟨hbs, hout⟩)
    rcases sequenced_cases hout hu with ⟨e, k, r, w, m, hr, hw, hp, h⟩ | h | ⟨x, p, h⟩ | ⟨f, p, h⟩
    · rw [h]
      exact bitcnt_completed (hs hbs hout) hr hw hp hbs hcs
    · simp [State.busy, h, Fsm.isBusy] at hb
    · rw [h]
      exact hcs
    · rw [h]
      exact hcs
  · rcases acceptWord_cases h with ⟨x, v, rfl⟩ | ⟨sel, crc, rfl⟩ | ⟨-, rfl⟩ | ⟨x, v, rfl⟩
    · simp [State.busy, Fsm.isBusy] at hb
    · simp [State.busy, Fsm.isBusy] at hb
    · rfl
    · simp [State.busy, Fsm.isBusy] at hb

theorem bitsAccounted_sampleInputs {s : State} (hc : s.BitsAccounted) : s.sampleInputs.BitsAccounted := by
  have he := sampleInputs_inSurroundings s
  have ho : s.sampleInputs.outstanding = s.outstanding := by rw [s.sampleInputs_eq]
  intro hb
  have hb' : (s.busy = true ∧ s.outstanding = none) ∨ s.fsm = .done := by
    rwa [ho, he] at hb
  rw [he]
  exact hc hb'

/-- Settles O52: the signals sampled, each way of the step keeps the accounting. -/
theorem everyStepKeepsBitAccounting : Obligations.EveryStepKeepsBitAccounting := fun _ _ hs hc hm h =>
  bitsAccounted_runSampled (frameInv_sampleInputs hs) (bitsAccounted_sampleInputs hc) hm h

end Sys2Proof.Proofs
end

section
/-! PROOFS. In SAMPLELOOP, of the register file only RAW0, RAW1 and GCNT change (spec/10_state.md R30); the step runs
the uop that SEQ names (spec/43_frame_sequencer.md R164). -/

namespace Sys2Proof.Proofs
open Sys2Proof Sys2Proof.Machine

/-- e' is e but for RAW0, RAW1 and GCNT. -/
def SamplesOnly (e e' : SbEntry) : Prop :=
  ∃ r0 r1 g, e' = { e with ch0 := { e.ch0 with raw := r0 }, ch1 := { e.ch1 with raw := r1 }, gcnt := g }

theorem SamplesOnly.refl (e : SbEntry) : SamplesOnly e e := ⟨e.ch0.raw, e.ch1.raw, e.gcnt, rfl⟩

theorem Resampled.raw {x y : Chan} (h : Resampled x y) : ∃ r, y = { x with raw := r } := by
  obtain rfl | ⟨v, -, rfl⟩ := h
  · exact ⟨y.raw, rfl⟩
  · exact ⟨_, rfl⟩

theorem samplesOnly_sampledEntry {e : SbEntry} {x y : Chan} (hx : Resampled e.ch0 x) (hy : Resampled e.ch1 y) :
    SamplesOnly e (sampledEntry e x y) := by
  obtain ⟨r0, rfl⟩ := hx.raw
  obtain ⟨r1, rfl⟩ := hy.raw
  exact ⟨r0, r1, nextGcnt e.gcnt, rfl⟩

/-- The uops of SAMPLELOOP are SAMPLE, PUT and SYNTH, and of these SAMPLE alone writes its entry. -/
theorem samplesOnly_completed {s m : State} {e : SbEntry} {k : Nat} {r w : Bool} (hf : s.fsm = .sampleLoop)
    (hr : Ran s e k r w) (hw : Wrote s s.seqI e k r w m) (i : SbIdx) : SamplesOnly (s.entry i) (m.entry i) := by
  by_cases hi : i = s.seqI
  · rw [hi, hw.entry]
    cases hr with
    | sample _ _ hx hy => exact samplesOnly_sampledEntry hx hy
    | put => exact .refl _
    | synth => exact .refl _
    | _ => simp_all
  · rw [hw.others i hi]
    exact .refl _

theorem samplesOnly_runSampled {s t : State} (hf : s.fsm = .sampleLoop) (hd : s.drivenWord = none)
    (hrst : s.pins.rst = false) (h : runSampled s = .next t) (ht : t.fsm ≠ .error) (i : SbIdx) :
    SamplesOnly (s.entry i) (t.entry i) := by
  have busy (hn : s.nextUop = none) : False := by simpa [State.busy, Fsm.isBusy, hf] using not_busy_of_nextUop hn
  rcases runSampled_cases h with ⟨hr, -⟩ | ⟨-, rfl⟩ | ⟨w, hw, -⟩ | ⟨u, hout, hu, rfl⟩ | ⟨w, hn, -⟩
  · rw [hrst] at hr; cases hr
  · exact .refl _
  · rw [hd] at hw; cases hw
  · rcases sequenced_cases hout hu with ⟨e, k, r, w, m, hr, hw, -, h⟩ | h | ⟨x, p, h⟩ | ⟨f, p, h⟩
    · rw [h, entry_advance]
      exact samplesOnly_completed hf hr hw i
    · exact absurd h ht
    · rw [h]; exact .refl _
    · rw [h]; exact .refl _
  · exact (busy hn).elim

/-- Settles O55: the step is a wait or a uop of SAMPLELOOP. -/
theorem sampleLoopWritesOnlyRawAndGcnt : Obligations.SampleLoopWritesOnlyRawAndGcnt := by
  intro s t hf hm hrst h ht i
  have he := s.sampleInputs_eq
  have hi := samplesOnly_runSampled (by rw [he]; exact hf) hm hrst h ht i
  rwa [he] at hi

/-! ## The step that runs the named uop -/

theorem runSampled_sequenced {s : State} {u : Instr} (hrst : s.pins.rst = false) (ho : s.outstanding = none)
    (hd : s.drivenWord = none) (hu : s.nextUop = some u) : runSampled s = issueNext u s := by
  simp [runSampled, runReady, hrst, ho, hd, hu]

/-- Where no grain is set and no uop has begun, the sequencer's uop runs whole. -/
theorem issueNext_whole {s : State} {u : Instr} (hu : u.port = .uopBus) (hf : s.inFlight = none)
    (hb : s.budget = none) : issueNext u s = mapNext State.afterUop (exec u s) := by
  rw [issueNext_eq hu, State.partUop_whole u s none hu hf hb, mapNext_next]

/-- Settles O6: with the signals sampled the step comes to the sequencer, which runs the uop whole or in part. -/
theorem sequencerStepRunsNamedUop : Obligations.SequencerStepRunsNamedUop := by
  intro s u hrst ho hm hu
  have hport := port_of_nextUop hu
  have he := s.sampleInputs_eq
  have ho' : s.sampleInputs.outstanding = none := by rw [he]; exact ho
  have hu' : s.sampleInputs.nextUop = some u := by rw [he]; exact hu
  have hstep : step s = issueNext u s.sampleInputs := runSampled_sequenced hrst ho' hm hu'
  refine ⟨decodeUop_encode hport, fun hf hb => ?_, fun _ => ?_⟩
  · exact hstep.trans (issueNext_whole hport (by rw [he]; exact hf) hb)
  · exact hstep.trans (issueNext_eq hport _)

end Sys2Proof.Proofs
end

section
/-! PROOFS. The host registers (spec/10_state.md R21 to R25, R37; spec/30_encoding.md R93; spec/60_exceptions.md
R200): their fields, peeled off from bit 0 upwards, and their values after reset. -/

namespace Sys2Proof.Proofs
open Sys2Proof Sys2Proof.Machine

/-! ## Fields of a concatenation -/

section Fields
variable {n m : Nat} (x : BitVec n) (y : BitVec m)

theorem field_above {start len : Nat} : (x ++ y).extractLsb' (m + start) len = x.extractLsb' start len := by
  rw [BitVec.extractLsb'_append_eq_of_le (by omega), Nat.add_sub_cancel_left]

theorem bit_above {i : Nat} : (x ++ y).getLsbD (m + i) = x.getLsbD i := by
  rw [BitVec.getLsbD_append, if_neg (by omega), Nat.add_sub_cancel_left]

theorem bit_lowest (b : Bool) : (x ++ BitVec.ofBool b).getLsbD 0 = b := by
  rw [BitVec.getLsbD_append]
  simp

end Fields

/-! ## STATUS, CONFIG, FRAME and ERRINFO -/

section Registers
variable (s : State)

theorem statusReg_created : s.statusReg.getLsbD 0 = s.created := bit_lowest _ _

theorem statusReg_busy : s.statusReg.getLsbD 1 = s.busy := (bit_above _ _).trans (bit_lowest _ _)

theorem statusReg_done : s.statusReg.getLsbD 2 = s.doneO :=
  (bit_above _ _).trans <| (bit_above _ _).trans (bit_lowest _ _)

theorem statusReg_error : s.statusReg.getLsbD 3 = s.errorO :=
  (bit_above _ _).trans <| (bit_above _ _).trans <| (bit_above _ _).trans (bit_lowest _ _)

/-- The fields of STATUS above its four flags, as those of the bits above them. -/
theorem statusReg_above {start len : Nat} : s.statusReg.extractLsb' (4 + start) len =
    (0#16 ++ s.seqG ++ BitVec.ofBool s.guard ++ s.fsm.code ++ s.cause.code).extractLsb' start len := by
  rw [show 4 + start = 1 + (1 + (1 + (1 + start))) by omega]
  exact (field_above _ _).trans <| (field_above _ _).trans <| (field_above _ _).trans (field_above _ _)

theorem statusReg_cause : s.statusReg.extractLsb' 4 4 = s.cause.code :=
  (statusReg_above s (start := 0)).trans BitVec.extractLsb'_append_eq_right

theorem statusReg_fsm : s.statusReg.extractLsb' 8 3 = s.fsm.code :=
  (statusReg_above s (start := 4)).trans <| (field_above _ _).trans BitVec.extractLsb'_append_eq_right

theorem statusReg_guard : s.statusReg.getLsbD 11 = s.guard :=
  (bit_above _ _).trans <| (bit_above _ _).trans <| (bit_above _ _).trans <| (bit_above _ _).trans <|
    (bit_above _ _).trans <| (bit_above _ _).trans (bit_lowest _ _)

theorem statusReg_seqG : s.statusReg.extractLsb' 12 4 = s.seqG :=
  (statusReg_above s (start := 8)).trans <| (field_above _ _).trans <| (field_above _ _).trans <|
    (field_above _ _).trans BitVec.extractLsb'_append_eq_right

theorem statusReg_unused : s.statusReg.extractLsb' 16 16 = 0#16 :=
  (statusReg_above s (start := 12)).trans <| (field_above _ _).trans <| (field_above _ _).trans <|
    (field_above _ _).trans BitVec.extractLsb'_append_eq_left

theorem configReg_sel : s.configReg.extractLsb' 0 2 = s.sel.code := BitVec.extractLsb'_append_eq_right

theorem configReg_crcPresent : s.configReg.getLsbD 2 = s.crcPresent := (bit_above _ _).trans (bit_lowest _ _)

theorem configReg_unused : s.configReg.extractLsb' 3 29 = 0#29 :=
  (field_above _ _).trans BitVec.extractLsb'_append_eq_left

theorem frameReg_mode : s.frameReg.extractLsb' 0 2 = s.mode.code := BitVec.extractLsb'_append_eq_right

theorem frameReg_n : s.frameReg.extractLsb' 2 6 = s.n := (field_above _ _).trans BitVec.extractLsb'_append_eq_right

theorem frameReg_b : s.frameReg.extractLsb' 8 6 = s.b :=
  (field_above _ _).trans <| (field_above _ _).trans BitVec.extractLsb'_append_eq_right

theorem frameReg_unused : s.frameReg.extractLsb' 14 18 = 0#18 :=
  (field_above _ _).trans <| (field_above _ _).trans BitVec.extractLsb'_append_eq_left

theorem errinfoReg_errWord : s.errinfoReg.extractLsb' 0 16 = s.errWord := BitVec.extractLsb'_append_eq_right

theorem errinfoReg_errSrc : s.errinfoReg.extractLsb' 16 1 = s.errSrc.code :=
  (field_above _ _).trans BitVec.extractLsb'_append_eq_right

theorem errinfoReg_errGran : s.errinfoReg.extractLsb' 17 4 = s.errGran :=
  (field_above _ _).trans <| (field_above _ _).trans BitVec.extractLsb'_append_eq_right

theorem errinfoReg_unused : s.errinfoReg.extractLsb' 21 11 = 0#11 :=
  (field_above _ _).trans <| (field_above _ _).trans BitVec.extractLsb'_append_eq_left

/-- BUSY is the five states of a frame in progress (10_state.md R22). -/
theorem busy_iff : s.busy = true ↔ s.fsm = .init ∨ s.fsm = .allocate ∨ s.fsm = .scaleSelect ∨
    s.fsm = .scaleFactors ∨ s.fsm = .sampleLoop := by
  unfold State.busy
  cases s.fsm <;> simp [Fsm.isBusy]

end Registers

/-- Settles O45: each register by the positions of its fields, the codes by their definitions. -/
theorem hostRegisterFields : Obligations.HostRegisterFields := by
  intro s hrst
  have hread (r : BitVec 3) : s.regRead r = some (if r = 0#3 then s.statusReg else if r = 1#3 then s.configReg
      else if r = 2#3 then s.frameReg else if r = 3#3 then s.errinfoReg else if r = 4#3 then s.bitcnt else 0#32) := by
    simp [State.regRead, hrst]
  refine ⟨hread 0#3, hread 1#3, hread 2#3, hread 3#3, hread 4#3, hread 5#3, hread 6#3, hread 7#3,
    statusReg_created s, ?_, ?_, ?_, statusReg_cause s, statusReg_fsm s, statusReg_guard s, statusReg_seqG s,
    statusReg_unused s, configReg_sel s, configReg_crcPresent s, configReg_unused s, frameReg_mode s, frameReg_n s,
    frameReg_b s, frameReg_unused s, errinfoReg_errWord s, errinfoReg_errSrc s, errinfoReg_errGran s,
    errinfoReg_unused s, ⟨rfl, rfl, rfl⟩, ⟨rfl, rfl, rfl, rfl⟩, ⟨rfl, rfl⟩, ⟨rfl, rfl, rfl, rfl, rfl, rfl, rfl, rfl⟩,
    rfl, rfl, rfl, rfl, rfl, rfl, rfl⟩
  · rw [statusReg_busy]; exact busy_iff s
  · rw [statusReg_done, State.doneO, beq_iff_eq]
  · rw [statusReg_error, State.errorO, beq_iff_eq]

/-- Settles O13: each of the eight register numbers is read in the state after reset. -/
theorem resetReadsZero : Obligations.ResetReadsZero := by
  refine ⟨by decide, fun i => ?_, rfl, rfl, rfl⟩
  rw [State.entry_reset]
  exact ⟨rfl, rfl⟩

end Sys2Proof.Proofs
end

section
/-! PROOFS. The bit stream (spec/20_memory.md R56): a field is the sum of its bits by place, and a GetBits either
completes with it, finds too few bits, never completes, or stands latched. -/

namespace Sys2Proof.Proofs
open Sys2Proof Sys2Proof.Machine

/-- The first of `n` bits stands at the place `2^(n-1)`, the last at `2^0`. -/
theorem natOfBits_eq_sum (bits : List Bool) :
    natOfBits bits = ∑ k ∈ Finset.range bits.length, (bits.getD k false).toNat * 2 ^ (bits.length - 1 - k) := by
  induction bits with
  | nil => rfl
  | cons b bs ih =>
    rw [natOfBits_cons, ih, List.length_cons, Finset.sum_range_succ', add_comm]
    simp [Nat.sub_sub, add_comm 1]

theorem peek_getD {r : BitReader} {n k : Nat} (hk : k < n) :
    (r.peek n).getD k false = r.bits.getD (r.cursor + k) false := by
  simp [BitReader.peek, List.getD_eq_getElem?_getD, hk]

/-- The field a GetBits reads, by the stream's bits (R56). -/
theorem natOfBits_peek {r : BitReader} {n : Nat} (h : r.has n = true) :
    natOfBits (r.peek n) =
      ∑ k ∈ Finset.range n, (r.bits.getD (r.cursor + k) false).toNat * 2 ^ (n - 1 - k) := by
  rw [natOfBits_eq_sum, BitReader.peek_length h]
  exact Finset.sum_congr rfl fun k hk => by rw [peek_getD (Finset.mem_range.mp hk)]

theorem issueGetBits_has {c : UopCtx} {n : Nat} {s : State} (ha : s.br.replies.next = .answers)
    (hh : s.br.has n = true) : issueGetBits c n s = .done (natOfBits (s.br.peek n)) c (s.tookBits n) := by
  simp [issueGetBits, ha, hh]

theorem issueGetBits_exhausted {c : UopCtx} {n : Nat} {s : State} (ha : s.br.replies.next = .answers)
    (hh : s.br.has n = false) :
    issueGetBits c n s = .stop ((s.foundExhausted n).uopFault c .bitstreamExhausted) := by
  simp [issueGetBits, ha, hh]

theorem issueGetBits_never {c : UopCtx} {n : Nat} {s : State} (hr : s.br.replies.next = .never) :
    issueGetBits c n s = .hang (.getBits n) { s with br := s.br.answered } := by
  simp [issueGetBits, hr]

/-- A GetBits whose completion is latched counts its bits and issues nothing (R257, log 9). -/
theorem getBits_latched {c : UopCtx} {e : Event} {rest : List Event} (h : c.replay = e :: rest) (n : Nat)
    (s : State) : getBits c n s = .done (e.result.bits % 2 ^ n) { c with replay := rest } (s.countBits n) := by
  simp [getBits, UopCtx.turn, h]

/-- Settles O37: one case per way a GetBits goes, the value by `natOfBits_peek`. -/
theorem getBitsIsMsbFirst : Obligations.GetBitsIsMsbFirst := by
  intro w n s _ _
  refine ⟨fun ha hn => ?_, fun hr => issueGetBits_never hr, fun v b hv => ?_, fun ha hn => ?_⟩
  · have hh : s.br.has n = true := decide_eq_true hn
    exact ⟨_, natOfBits_peek hh, BitReader.peek_lt hh, issueGetBits_has ha hh⟩
  · rw [getBits_latched rfl]
    simp only [Completion.bits, Nat.mod_eq_of_lt hv]
    rfl
  · have hh : s.br.has n = false := decide_eq_false (not_le.mpr hn)
    exact ⟨_, issueGetBits_exhausted ha hh, rfl, rfl, rfl, rfl⟩

end Sys2Proof.Proofs
end

section
/-! PROOFS. The requantization ROMs (spec/20_memory.md R50 to R53). An entry within half a unit of its last place of
the value its formula gives is nearer to it than every other finite pattern. For a quotient that distance is
evaluated; for the cube root 2^(1 - c/3) the cubes of the two ends are. The STEPWISE offsets are the model's own
product of two rounded operands. -/

namespace Sys2Proof.Proofs
open Sys2Proof Sys2Proof.Machine

/-! ## Nearer than every other pattern -/

/-- The unit of a pattern's last place. -/
def lastUnit (x : F32) : ℚ := 2 ^ scale x / 2 ^ 149

theorem lastUnit_pos (x : F32) : 0 < lastUnit x := by unfold lastUnit; positivity

/-- A value is a multiple of each last place that is not above its own. -/
theorem valueF32_eq_mul {x z : F32} (h : scale x ≤ scale z) :
    valueF32 z = (signed (signOf z) (significand z * 2 ^ (scale z - scale x)) : ℤ) * lastUnit x := by
  have hsplit : signed (signOf z) (significand z * 2 ^ scale z) =
      signed (signOf z) (significand z * 2 ^ (scale z - scale x)) * 2 ^ scale x := by
    rw [← signed_mul_two_pow, mul_assoc, ← pow_add, Nat.sub_add_cancel h]
  rw [valueF32_eq, hsplit, lastUnit]
  push_cast
  ring

/-- A value of a lower last place has no 24 bits at this one. -/
theorem abs_valueF32_lt {x z : F32} (h : scale z < scale x) : |valueF32 z| < 2 ^ 23 * lastUnit x := by
  have hpos := signed_lt_of_lt_lastPlace (signOf z) (significand_lt z) h
  have hneg := signed_lt_of_lt_lastPlace (!signOf z) (significand_lt z) h
  rw [signed_not] at hneg
  have habs : |signed (signOf z) (significand z * 2 ^ scale z)| < 2 ^ 23 * 2 ^ scale x :=
    abs_lt.mpr ⟨by linarith, hpos⟩
  rw [valueF32_eq, lastUnit, ← mul_div_assoc, abs_div, abs_of_pos (by positivity : (0 : ℚ) < 2 ^ 149)]
  gcongr
  exact_mod_cast habs

section Nearer
variable {K : Type} [Field K] [LinearOrder K] [IsStrictOrderedRing K]

/-- `v` lies less than half a unit of the last place of `x` from it, and has 24 bits at that place. -/
def WithinHalf (x : F32) (v : K) : Prop :=
  (valueF32 x : K) - lastUnit x / 2 < v ∧ v < valueF32 x + lastUnit x / 2 ∧ 2 ^ 23 * (lastUnit x : K) ≤ |v|

/-- Of the multiples of `u`, the one within half of it is nearest. -/
theorem nearer_multiple {u v : K} {m n : ℤ} (hu : 0 < u) (h : |m * u - v| < u / 2) (hne : n ≠ m) :
    |m * u - v| < |n * u - v| := by
  have happart : u ≤ |n * u - v| + |m * u - v| :=
    calc u = 1 * u := (one_mul u).symm
      _ ≤ |((n - m : ℤ) : K)| * u := by
        gcongr
        exact_mod_cast Int.one_le_abs (sub_ne_zero.mpr hne)
      _ = |(n * u - v) - (m * u - v)| := by
        rw [← abs_of_pos hu, ← abs_mul, abs_of_pos hu]; push_cast; ring_nf
      _ ≤ |n * u - v| + |m * u - v| := abs_sub _ _
  linarith

/-- What is smaller than a multiple of `u` that does not reach past `v` is less near than the nearest one. -/
theorem nearer_small {u v y : K} {m : ℤ} (n : ℤ) (hu : 0 < u) (h : |m * u - v| < u / 2) (hv : n * u ≤ |v|)
    (hy : |y| < n * u) : |m * u - v| < |y - v| := by
  have hgrid (k : ℤ) : |m * u - v| ≤ |k * u - v| := by
    by_cases hk : k = m
    · rw [hk]
    · exact (nearer_multiple hu h hk).le
  obtain ⟨hylo, hyhi⟩ := abs_lt.mp hy
  obtain hpos | hneg := le_total 0 v
  · rw [abs_of_nonneg hpos] at hv
    calc |m * u - v| ≤ |n * u - v| := hgrid n
      _ = v - n * u := by rw [abs_of_nonpos (by linarith), neg_sub]
      _ < v - y := by linarith
      _ ≤ |y - v| := (le_abs_self _).trans_eq (abs_sub_comm _ _)
  · rw [abs_of_nonpos hneg] at hv
    calc |m * u - v| ≤ |(-n : ℤ) * u - v| := hgrid (-n)
      _ = -v - n * u := by push_cast; rw [abs_of_nonneg (by linarith)]; ring
      _ < y - v := by linarith
      _ ≤ |y - v| := le_abs_self _

/-- A pattern of x's last place or a higher one is a multiple of it; a pattern of a lower one is smaller than
2^23 of it, which lies between that pattern and `v`. -/
theorem WithinHalf.nearer {x z : F32} {v : K} (h : WithinHalf x v) (hne : valueF32 z ≠ valueF32 x) :
    |(valueF32 x : K) - v| < |(valueF32 z : K) - v| := by
  obtain ⟨hlo, hhi, habove⟩ := h
  have hu : (0 : K) < lastUnit x := by exact_mod_cast lastUnit_pos x
  have hx := valueF32_eq_mul (le_refl (scale x))
  have hnear : |(valueF32 x : K) - v| < lastUnit x / 2 := abs_sub_lt_iff.mpr ⟨by linarith, by linarith⟩
  generalize signed (signOf x) (significand x * 2 ^ (scale x - scale x)) = m at hx
  rw [hx, Rat.cast_mul, Rat.cast_intCast] at hnear ⊢
  obtain hge | hlt := le_or_gt (scale x) (scale z)
  · have hz := valueF32_eq_mul hge
    rw [hz, Rat.cast_mul, Rat.cast_intCast]
    refine nearer_multiple hu hnear fun heq => hne ?_
    rw [hz, hx, heq]
  · have hsmall : |(valueF32 z : K)| < 2 ^ 23 * lastUnit x := by exact_mod_cast abs_valueF32_lt hlt
    exact nearer_small (2 ^ 23) hu hnear (by exact_mod_cast habove) (by exact_mod_cast hsmall)

theorem WithinHalf.nearest {x : F32} {v : K} (h : WithinHalf x v) (z : F32) :
    |(valueF32 x : K) - v| ≤ |(valueF32 z : K) - v| := by
  by_cases hz : valueF32 z = valueF32 x
  · rw [hz]
  · exact (h.nearer hz).le

end Nearer

theorem WithinHalf.nearestEven {x : F32} {q : ℚ} (h : WithinHalf x q) : NearestEven x q := fun z _ =>
  ⟨by simpa only [Rat.cast_id] using h.nearest z, fun heq hne =>
    absurd heq (by simpa only [Rat.cast_id] using (h.nearer hne).ne)⟩

/-! ## Factors and offsets -/

theorem factorRom_within : ∀ a : BitVec 4, 1 ≤ a.toNat → a.toNat ≤ 14 →
    FiniteF32 (factorRom a) ∧ WithinHalf (factorRom a) (2 / (2 ^ (a.toNat + 1) - 1) : ℚ) := by
  unfold FiniteF32 WithinHalf
  decide +kernel

theorem offsetRom_exact_within : ∀ a : BitVec 4, 1 ≤ a.toNat → a.toNat ≤ 14 →
    FiniteF32 (offsetRom .exact a) ∧
    WithinHalf (offsetRom .exact a) ((2 - 2 ^ (a.toNat + 1)) / (2 ^ (a.toNat + 1) - 1) : ℚ) := by
  unfold FiniteF32 WithinHalf
  decide +kernel

/-- The first operand of a STEPWISE offset, 2^-a - 1, which is exact. -/
def stepFactor (a : BitVec 4) : F32 := roundF32 true (2 ^ a.toNat - 1) (298 - a.toNat)

/-- Its second operand, 2^(a+1) / (2^(a+1) - 1) rounded. -/
def stepQuotient (a : BitVec 4) : F32 := roundF32 false (2 ^ (298 + a.toNat + 1) / (2 ^ (a.toNat + 1) - 1)) 0

theorem stepFactor_exact : ∀ a : BitVec 4, 1 ≤ a.toNat → a.toNat ≤ 14 →
    FiniteF32 (stepFactor a) ∧ valueF32 (stepFactor a) = 1 / 2 ^ a.toNat - 1 := by
  unfold FiniteF32
  decide +kernel

theorem stepQuotient_within : ∀ a : BitVec 4, 1 ≤ a.toNat → a.toNat ≤ 14 →
    FiniteF32 (stepQuotient a) ∧
    WithinHalf (stepQuotient a) (2 ^ (a.toNat + 1) / (2 ^ (a.toNat + 1) - 1) : ℚ) := by
  unfold FiniteF32 WithinHalf
  decide +kernel

/-- A STEPWISE offset is the product the machine forms of its two operands (R51). -/
theorem offsetRom_stepwise_eq : ∀ a : BitVec 4, 1 ≤ a.toNat → a.toNat ≤ 14 →
    FiniteF32 (offsetRom .stepwise a) ∧ offsetRom .stepwise a = fmul32 (stepFactor a) (stepQuotient a) := by
  unfold FiniteF32
  decide +kernel

/-- Some of these products lie half-way between two patterns, so their rounding is the product's own. -/
theorem offsetRom_stepwise_nearest {a : BitVec 4} (hlo : 1 ≤ a.toNat) (hhi : a.toNat ≤ 14) :
    NearestEven (offsetRom .stepwise a) ((1 / 2 ^ a.toNat - 1) * valueF32 (stepQuotient a)) := by
  obtain ⟨hfin, heq⟩ := offsetRom_stepwise_eq a hlo hhi
  obtain ⟨hfactor, hvalue⟩ := stepFactor_exact a hlo hhi
  rw [heq] at hfin ⊢
  rw [← hvalue]
  exact productRoundsToNearestEven _ _ hfactor (stepQuotient_within a hlo hhi).1 hfin

/-! ## Scale factors -/

/-- Of a value within half a unit of x's last place, with 24 bits at that place, the cube is 2^(3-c). -/
def CubeWithinHalf (x : F32) (c : Nat) : Prop :=
  0 < valueF32 x ∧ (valueF32 x - lastUnit x / 2) ^ 3 * 2 ^ c < 8 ∧
  8 < (valueF32 x + lastUnit x / 2) ^ 3 * 2 ^ c ∧ (2 ^ 23 * lastUnit x) ^ 3 * 2 ^ c ≤ 8

/-- Cubing keeps the order, so the cubes of the bounds bound the cube root. -/
theorem CubeWithinHalf.withinHalf {x : F32} {v : ℝ} {c : Nat} (h : CubeWithinHalf x c) (hv : 0 < v)
    (hcube : v ^ 3 * 2 ^ c = 8) : WithinHalf x v := by
  obtain ⟨hx, hlo, hhi, habove⟩ := h
  have hpow : (0 : ℝ) < 2 ^ c := by positivity
  have hu := lastUnit_pos x
  have hend : (0 : ℝ) ≤ valueF32 x + lastUnit x / 2 := by positivity
  rw [← Rat.cast_lt (K := ℝ)] at hlo hhi
  rw [← Rat.cast_le (K := ℝ)] at habove
  push_cast at hlo hhi habove
  rw [← hcube] at hlo hhi habove
  rw [WithinHalf, abs_of_pos hv]
  exact ⟨lt_of_pow_lt_pow_left₀ 3 hv.le (lt_of_mul_lt_mul_right hlo hpow.le),
    lt_of_pow_lt_pow_left₀ 3 hend (lt_of_mul_lt_mul_right hhi hpow.le),
    le_of_pow_le_pow_left₀ (by norm_num) hv.le (le_of_mul_le_mul_right habove hpow)⟩

theorem scfRom_cubeWithinHalf : ∀ c : BitVec 6, c ≠ 63#6 →
    FiniteF32 (scfRom c) ∧ CubeWithinHalf (scfRom c) c.toNat := by
  unfold FiniteF32 CubeWithinHalf
  decide +kernel

theorem scaleFactor_cubed (c : Nat) : ((2 : ℝ) ^ (1 - (c : ℝ) / 3)) ^ 3 * 2 ^ c = 8 := by
  rw [← Real.rpow_mul_natCast (by norm_num), ← Real.rpow_natCast 2 c, ← Real.rpow_add (by norm_num),
    show (1 - (c : ℝ) / 3) * (3 : ℕ) + c = (3 : ℕ) by push_cast; ring, Real.rpow_natCast]
  norm_num

/-- Settles O14: each entry lies within half its last place of its formula, but for the STEPWISE offsets, which are
products rounded once. -/
theorem romsHoldTheirFormulas : Obligations.RomsHoldTheirFormulas := by
  refine ⟨fun a hlo hhi => ?_, fun a ha => ?_, fun c hc => ?_, rfl, rfl⟩
  · obtain ⟨hfactor, hfactorNear⟩ := factorRom_within a hlo hhi
    obtain ⟨hexact, hexactNear⟩ := offsetRom_exact_within a hlo hhi
    obtain ⟨hquotient, hquotientNear⟩ := stepQuotient_within a hlo hhi
    exact ⟨⟨hfactor, hfactorNear.nearestEven⟩, ⟨hexact, hexactNear.nearestEven⟩, stepQuotient a, hquotient,
      hquotientNear.nearestEven, (offsetRom_stepwise_eq a hlo hhi).1, offsetRom_stepwise_nearest hlo hhi⟩
  · obtain rfl | rfl := ha <;> exact ⟨rfl, fun v => by cases v <;> rfl⟩
  · obtain ⟨hfin, hcube⟩ := scfRom_cubeWithinHalf c hc
    exact ⟨hfin, fun z _ => (hcube.withinHalf (by positivity) (scaleFactor_cubed c.toNat)).nearest z⟩

end Sys2Proof.Proofs
end

section
/-! PROOFS. The decoder and the encoder (spec/30_encoding.md R86 to R92): each port's verdict said once as an `↔`, and
what follows from it for the words that decode and for those that fault. -/

namespace Sys2Proof.Proofs
open Sys2Proof Sys2Proof.Machine

/-! ## Words put together again from their fields -/

theorem uopWord_fields {w : Word} (hz : zOf w = 0#5) : uopWord (opcOf w) (varOf w) (sbOf w) = w := by
  have hjoin : opcOf w ++ varOf w ++ zOf w ++ sbOf w = w := by
    unfold opcOf varOf zOf sbOf
    rw [BitVec.extractLsb'_append_extractLsb'_eq_extractLsb' (show 12 = 10 + 2 by rfl),
      BitVec.extractLsb'_append_extractLsb'_eq_extractLsb' (show 10 = 5 + 5 by rfl),
      BitVec.extractLsb'_append_extractLsb'_eq_extractLsb' (show 5 = 0 + 5 by rfl)]
    exact BitVec.extractLsb'_eq_self
  rwa [hz] at hjoin

theorem cmdWord_fields {w : Word} (hr : reservedOf w = 0#9) : cmdWord (opcOf w) (crcOf w) (selOf w) = w := by
  have hcrc : BitVec.ofBool (crcOf w) = w.extractLsb' 2 1 := by
    ext i hi
    simp [crcOf, show i = 0 by omega]
  have hjoin : opcOf w ++ reservedOf w ++ w.extractLsb' 2 1 ++ selOf w = w := by
    unfold opcOf reservedOf selOf
    rw [BitVec.extractLsb'_append_extractLsb'_eq_extractLsb' (show 12 = 3 + 9 by rfl),
      BitVec.extractLsb'_append_extractLsb'_eq_extractLsb' (show 3 = 2 + 1 by rfl),
      BitVec.extractLsb'_append_extractLsb'_eq_extractLsb' (show 2 = 0 + 2 by rfl)]
    exact BitVec.extractLsb'_eq_self
  rwa [hr, ← hcrc] at hjoin

/-! ## The verdict of each port -/

theorem decodeUop_eq_some_iff {w : Word} {i : Instr} :
    decodeUop w = some i ↔ zOf w = 0#5 ∧
      (opcOf w = 7#4 ∧ varOf w = 0#2 ∧ synthOf (sbOf w) = some i ∨
        opcOf w ≠ 7#4 ∧ uopOf (opcOf w).toNat (varOf w).toNat (sbOf w) = some i) := by
  unfold decodeUop
  split_ifs <;> simp_all

theorem decodeCmd_eq_some_iff {w : Word} {i : Instr} :
    decodeCmd w = some i ↔
      (opcOf w = 8#4 ∧ reservedOf w = 0#9 ∧ selOf w ≠ 3#2 ∧ i = .cfg (crcOf w) (selOf w)) ∨
        (w = 0x9000#16 ∧ i = .decode) := by
  by_cases hd : w = 0x9000#16
  · subst hd
    have hopc : opcOf 0x9000#16 ≠ 8#4 := by decide
    have hdec : decodeCmd 0x9000#16 = some .decode := by decide
    simp [hopc, hdec, eq_comm]
  · unfold decodeCmd
    split_ifs with hr hopc hsel h9 <;> simp_all [eq_comm (a := i)]

theorem decodeWord_eq_some {w : Word} {i : Instr} (h : decodeWord w = some i) :
    decodeUop w = some i ∨ decodeCmd w = some i := by
  unfold decodeWord at h
  split at h
  · exact .inl (h ▸ ‹_›)
  · exact .inr h

/-! ## The meaning of a word -/

/-- R88's map, read backwards: each row's operation is encoded by that row's OPC and VAR. -/
theorem encode_of_uopOf {opc var : Nat} {sb : SbIdx} {i : Instr} (h : uopOf opc var sb = some i) :
    encode i = uopWord (BitVec.ofNat 4 opc) (BitVec.ofNat 2 var) sb := by
  unfold uopOf at h
  split at h <;> cases h <;> rfl

/-- SYNTH's bit 0 names the filter (30_encoding.md R86). -/
theorem encode_of_synthOf {sb : SbIdx} {i : Instr} (h : synthOf sb = some i) :
    encode i = uopWord 7#4 0#2 sb := by
  unfold synthOf at h
  split_ifs at h with ha hb <;> cases h
  · rw [ha]; rfl
  · rw [hb]; rfl

theorem encode_of_decodeUop {w : Word} {i : Instr} (h : decodeUop w = some i) : encode i = w := by
  obtain ⟨hz, ⟨hopc, hvar, h⟩ | ⟨-, h⟩⟩ := decodeUop_eq_some_iff.mp h
  · rw [encode_of_synthOf h, ← hopc, ← hvar, uopWord_fields hz]
  · rw [encode_of_uopOf h, BitVec.ofNat_toNat, BitVec.ofNat_toNat, BitVec.setWidth_eq, BitVec.setWidth_eq,
      uopWord_fields hz]

/-- What decodes on CMD is a host command of the table, and the word is its encoding. -/
theorem encode_of_decodeCmd {w : Word} {i : Instr} (h : decodeCmd w = some i) :
    i.wellFormed = true ∧ encode i = w := by
  obtain ⟨hopc, hr, hsel, rfl⟩ | ⟨rfl, rfl⟩ := decodeCmd_eq_some_iff.mp h
  · refine ⟨by simpa [Instr.wellFormed] using hsel, ?_⟩
    rw [encode, ← hopc, cmdWord_fields hr]
  · exact ⟨rfl, rfl⟩

/-- Settles O1: the round trip of each constructor, for all of them. -/
theorem decodeEncodeRoundTrip : Obligations.DecodeEncodeRoundTrip := fun i => roundTrip i

/-- Settles O2: the word is put together again from the fields that its port's verdict has read. -/
theorem decodedWordIsItsEncoding : Obligations.DecodedWordIsItsEncoding := by
  intro w i h
  obtain h | h := decodeWord_eq_some h
  · exact ⟨wellFormed_of_port (port_of_decodeUop h), encode_of_decodeUop h⟩
  · exact encode_of_decodeCmd h

/-! ## Which words are legal -/

/-- Whether OPC and VAR name an operation does not depend on SB. -/
theorem isSome_uopOf_congr (opc var : Nat) (sb sb' : SbIdx) :
    (uopOf opc var sb).isSome = (uopOf opc var sb').isSome := by
  unfold uopOf
  split <;> rfl

theorem isSome_uopOf (opc : BitVec 4) (var : BitVec 2) (sb : SbIdx) :
    (uopOf opc.toNat var.toNat sb).isSome = true ↔ (1 ≤ opc.toNat ∧ opc.toNat ≤ 6) ∧ var ≠ 3#2 := by
  rw [isSome_uopOf_congr _ _ sb 0#5]
  revert opc var
  decide

theorem isSome_synthOf (sb : SbIdx) : (synthOf sb).isSome = true ↔ sb.extractLsb' 1 4 = 0#4 := by
  revert sb
  decide

/-- R90 over the decoder's own fields. -/
theorem isSome_decodeUop (w : Word) :
    (decodeUop w).isSome = true ↔ zOf w = 0#5 ∧
      (opcOf w = 7#4 ∧ varOf w = 0#2 ∧ (sbOf w).extractLsb' 1 4 = 0#4 ∨
        opcOf w ≠ 7#4 ∧ (1 ≤ (opcOf w).toNat ∧ (opcOf w).toNat ≤ 6) ∧ varOf w ≠ 3#2) := by
  rw [← isSome_synthOf, ← isSome_uopOf _ _ (sbOf w)]
  simp only [Option.isSome_iff_exists, decodeUop_eq_some_iff, exists_and_left, exists_or]

/-- SYNTH's must-be-zero bits are bits 4..1 of the word as they are of SB. -/
theorem sbOf_high (w : Word) : (sbOf w).extractLsb' 1 4 = w.extractLsb' 1 4 := by
  ext i hi
  simp [sbOf]

/-- R91 over the decoder's own fields. -/
theorem isSome_decodeCmd (w : Word) :
    (decodeCmd w).isSome = true ↔
      (opcOf w = 8#4 ∧ reservedOf w = 0#9 ∧ selOf w ≠ 3#2) ∨ w = 0x9000#16 := by
  simp [Option.isSome_iff_exists, decodeCmd_eq_some_iff, exists_or]

/-- Settles O3: the verdict by `isSome_decodeUop`; every other word is a uop fault with that word. -/
theorem uopWordLegalIff : Obligations.UopWordLegalIff := by
  intro w
  refine ⟨?_, fun h s d => ⟨_, issueWord_illegal h d s, rfl⟩⟩
  show (decodeUop w).isSome = true ↔ (1 ≤ (opcOf w).toNat ∧ (opcOf w).toNat ≤ 7) ∧ zOf w = 0#5 ∧
    ((opcOf w).toNat ≤ 6 → varOf w ≠ 3#2) ∧ ((opcOf w).toNat = 7 → varOf w = 0#2 ∧ w.extractLsb' 1 4 = 0#4)
  have h7 : opcOf w = 7#4 ↔ (opcOf w).toNat = 7 := BitVec.toNat_inj.symm
  rw [isSome_decodeUop, sbOf_high, h7]
  by_cases hopc : (opcOf w).toNat = 7
  · simp [hopc]
  · have hle : (opcOf w).toNat ≤ 7 ↔ (opcOf w).toNat ≤ 6 := by omega
    simp only [hopc, hle]
    tauto

/-- Settles O4: the verdict by `isSome_decodeCmd`; every other word is a command fault with that word. -/
theorem commandWordVerdict : Obligations.CommandWordVerdict := by
  intro w
  refine ⟨?_, fun h s => ?_⟩
  · exact isSome_decodeCmd w
  · rw [acceptWord, h]
    rfl

/-- Settles O5: each word is decoded. -/
theorem specWordsDecode : Obligations.SpecWordsDecode := by
  unfold Obligations.SpecWordsDecode
  decide

end Sys2Proof.Proofs
end

section
/-! PROOFS. A word driven on the uop bus, or offered on CMD, as the one operation of a step (spec/30_encoding.md R90;
spec/60_exceptions.md R207; spec/70_reset_and_hazards.md R244). -/

namespace Sys2Proof.Proofs
open Sys2Proof Sys2Proof.Machine

/-! ## Which word a step runs -/

section Ready
variable {s : State} (hrst : s.pins.rst = false) (ho : s.outstanding = none)
include hrst ho

theorem runSampled_ready : runSampled s = runReady s := by
  simp [runSampled, hrst, ho]

/-- A driven word runs before anything else. -/
theorem runSampled_driven {w : Word} (hd : s.drivenWord = some w) : runSampled s = driveWord w s := by
  rw [runSampled_ready hrst ho, runReady, hd]

/-- With no driven word and no frame in progress a step is the host's. -/
theorem runSampled_acceptOrIdle (hd : s.drivenWord = none) (hu : s.nextUop = none) :
    runSampled s = acceptOrIdle s := by
  rw [runSampled_ready hrst ho, runReady, hd, hu]

end Ready

theorem drivenWord_of_begun_none {s : State} (hf : s.inFlight = none) :
    s.drivenWord = if s.fsm = .error then none else s.pins.uop := by
  rw [State.drivenWord, hf]

theorem acceptOrIdle_none {s : State} (h : s.pins.cmd = none) : acceptOrIdle s = .next s := by
  rw [acceptOrIdle, h]

theorem acceptOrIdle_some {s : State} {w : Word} (h : s.pins.cmd = some w) :
    acceptOrIdle s = acceptWord w s.takeCmd := by
  rw [acceptOrIdle, h]

theorem acceptWord_legal {w : Word} {i : Instr} (h : decodeCmd w = some i) (s : State) :
    acceptWord w s = exec i s := by
  rw [acceptWord, h]

/-- Where no grain is set and no uop has begun, a legal driven word runs whole, taken off the bus. -/
theorem driveWord_whole {s : State} {w : Word} {i : Instr} (hf : s.inFlight = none) (hb : s.budget = none)
    (h : decodeUop w = some i) : driveWord w s = exec i s.takeUop := by
  simp [driveWord, issueWord, State.wholeUop, hf, hb, h]

theorem nextUop_of_error {s : State} (h : s.fsm = .error) : s.nextUop = none := by
  simp [State.nextUop, h]

/-- Settles O8: outside ERROR the step is the driven word's, in ERROR the host's. -/
theorem drivenUopWordRuns : Obligations.DrivenUopWordRuns := by
  intro s w hrst ho hf hw
  have he := s.sampleInputs_eq
  have hfsm : s.sampleInputs.fsm = s.fsm := by rw [he]
  have ho : s.sampleInputs.outstanding = none := by rw [he]; exact ho
  have hf : s.sampleInputs.inFlight = none := by rw [he]; exact hf
  have hd := drivenWord_of_begun_none hf
  rw [hfsm, hw] at hd
  have inError (herr : s.fsm = .error) : step s = acceptOrIdle s.sampleInputs := by
    rw [if_pos herr] at hd
    exact runSampled_acceptOrIdle hrst ho hd (nextUop_of_error (hfsm.trans herr))
  refine ⟨fun hne hb i hi => ?_, fun herr hc => ?_, fun herr c hc => ?_⟩
  · rw [if_neg hne] at hd
    exact (runSampled_driven hrst ho hd).trans (driveWord_whole hf hb hi)
  · exact (inError herr).trans (acceptOrIdle_none hc)
  · exact (inError herr).trans (acceptOrIdle_some hc)

/-! ## A placed word -/

/-- OPC 8 and 9 are the host commands' (30_encoding.md R88). -/
theorem opcOf_of_decodeCmd {w : Word} {i : Instr} (h : decodeCmd w = some i) :
    opcOf w = 8#4 ∨ opcOf w = 9#4 := by
  obtain ⟨hopc, -⟩ | ⟨rfl, -⟩ := decodeCmd_eq_some_iff.mp h
  · exact .inl hopc
  · exact .inr (by decide)

theorem opcOf_of_decodeUop {w : Word} {i : Instr} (h : decodeUop w = some i) :
    ¬ (opcOf w = 8#4 ∨ opcOf w = 9#4) := by
  have hlegal : (decodeUop w).isSome = true := by rw [h]; rfl
  obtain ⟨-, ⟨hopc, -⟩ | ⟨-, ⟨-, hle⟩, -⟩⟩ := (isSome_decodeUop w).mp hlegal
  · rw [hopc]; decide
  · rintro (hopc | hopc) <;> simp [hopc] at hle

/-- The reset state with a uop word placed, its signals sampled, is the reset state with that word on the uop bus. -/
theorem sampleInputs_placeWord_uop {w : Word} (h : ¬ (opcOf w = 8#4 ∨ opcOf w = 9#4)) :
    (State.reset.placeWord w).sampleInputs =
      { State.reset with pins := { Pins.quiet with uop := some w } } := by
  simp [State.placeWord, State.sampleInputs, State.reset, Pins.quiet, h]

/-- With a command word placed, it is the reset state with that word on CMD. -/
theorem sampleInputs_placeWord_cmd {w : Word} (h : opcOf w = 8#4 ∨ opcOf w = 9#4) :
    (State.reset.placeWord w).sampleInputs =
      { State.reset with pins := { Pins.quiet with cmd := some w } } := by
  simp [State.placeWord, State.sampleInputs, State.reset, Pins.quiet, h]

/-- Settles O9: the word placed stands alone on the port where it is legal, and the step takes it off. -/
theorem placedWordRunsFirst : Obligations.PlacedWordRunsFirst := by
  intro w i h
  obtain h | h := decodeWord_eq_some h
  · have hs := sampleInputs_placeWord_uop (opcOf_of_decodeUop h)
    calc step (State.reset.withFetchWord 16 w) = runSampled _ := congrArg runSampled hs
      _ = driveWord _ _ := runSampled_driven rfl rfl rfl
      _ = exec i State.reset := driveWord_whole rfl rfl h
  · have hs := sampleInputs_placeWord_cmd (opcOf_of_decodeCmd h)
    calc step (State.reset.withFetchWord 16 w) = runSampled _ := congrArg runSampled hs
      _ = acceptOrIdle _ := runSampled_acceptOrIdle rfl rfl rfl rfl
      _ = acceptWord _ _ := acceptOrIdle_some rfl
      _ = exec i State.reset := acceptWord_legal h State.reset

end Sys2Proof.Proofs
end

section
/-! PROOFS. Dequantizing stays far below binary32's overflow (spec/42_dequant_routing.md R141), by the exponents of what
is multiplied and added; so the two tolerant codes give zeros (spec/30_encoding.md R81, R82). -/

namespace Sys2Proof.Proofs
open Sys2Proof Sys2Proof.Machine

/-! ## Exponents of products and sums -/

theorem expOf_zeroF32 (neg : Bool) : expOf (zeroF32 neg) = 0 := by cases neg <;> decide

/-- A value below `2^(k + 173)` units of 2^-298 rounds to an exponent of at most `k + 2`: its last place is at most `k`
above the subnormals', and its significand may carry. -/
theorem expOf_roundF32_le (neg : Bool) {m y k : Nat} (hk : k ≤ 252) (h : m * 2 ^ y < 2 ^ (k + 173)) :
    expOf (roundF32 neg m y) ≤ k + 2 := by
  by_cases hm : m = 0
  · rw [hm, roundF32_zero, expOf_zeroF32]
    exact Nat.zero_le _
  have hlog : m.log2 + y < k + 173 := by
    refine (Nat.pow_lt_pow_iff_right (by norm_num : 1 < 2)).mp (lt_of_le_of_lt ?_ h)
    rw [pow_add]
    gcongr
    exact Nat.log2_self_le hm
  have hplace : lastPlace m y - 149 ≤ k := by unfold lastPlace; omega
  have hpattern : (lastPlace m y - 149) * 2 ^ 23 + kept m y ≤ (k + 2) * 2 ^ 23 := by
    have := kept_le m y
    omega
  obtain ⟨-, hexp, -⟩ := fields_ofNat neg (p := (lastPlace m y - 149) * 2 ^ 23 + kept m y) (by omega)
  rw [roundF32_of_ne_zero neg y hm, if_neg (by omega), hexp]
  omega

theorem finiteF32_of_expOf_le {x : F32} {k : Nat} (h : expOf x ≤ k) (hk : k ≤ 254) : FiniteF32 x := by
  unfold FiniteF32
  omega

/-- A value is below 24 bits at its exponent. -/
theorem significand_scale_lt {x : F32} {k : Nat} (h : expOf x ≤ k) :
    significand x * 2 ^ (scale x + 149) < 2 ^ (k + 173) := by
  have hscale : scale x ≤ k := by unfold scale; split <;> omega
  calc significand x * 2 ^ (scale x + 149) < 2 ^ 24 * 2 ^ (scale x + 149) := by
        gcongr
        exact significand_lt x
    _ = 2 ^ (scale x + 173) := by rw [← pow_add]; ring_nf
    _ ≤ 2 ^ (k + 173) := by gcongr; norm_num

/-- The exponents of a product's operands add up, less the bias. -/
theorem expOf_fmul32_le {x y : F32} {j k n : Nat} (hx : FiniteF32 x) (hy : FiniteF32 y) (hj : expOf x ≤ j)
    (hk : expOf y ≤ k) (hn : n ≤ 252) (h : j + k ≤ n + 125) : expOf (fmul32 x y) ≤ n + 2 := by
  rw [fmul32_of_finite hx hy]
  refine expOf_roundF32_le _ hn (Nat.lt_of_mul_lt_mul_right (a := 2 ^ 149 * 2 ^ 149) ?_)
  calc significand x * significand y * 2 ^ (scale x + scale y) * (2 ^ 149 * 2 ^ 149)
      = significand x * 2 ^ (scale x + 149) * (significand y * 2 ^ (scale y + 149)) := by ring
    _ < 2 ^ (j + 173) * 2 ^ (k + 173) := Nat.mul_lt_mul'' (significand_scale_lt hj) (significand_scale_lt hk)
    _ = 2 ^ (j + 173 + (k + 173)) := (pow_add ..).symm
    _ ≤ 2 ^ (n + 173 + (149 + 149)) := Nat.pow_le_pow_right (by norm_num) (by omega)
    _ = 2 ^ (n + 173) * (2 ^ 149 * 2 ^ 149) := by rw [pow_add, pow_add 2 149]

/-- Whatever the signs, a sum is no larger than its operands' magnitudes together. -/
theorem expOf_addFinite_le (nx ny : Bool) {mx my y k : Nat} (hk : k ≤ 252)
    (h : (mx + my) * 2 ^ y < 2 ^ (k + 173)) : expOf (addFinite nx ny mx my y) ≤ k + 2 := by
  have smaller (neg : Bool) {m : Nat} (hm : m ≤ mx + my) : expOf (roundF32 neg m y) ≤ k + 2 :=
    expOf_roundF32_le neg hk ((Nat.mul_le_mul_right _ hm).trans_lt h)
  unfold addFinite
  split_ifs
  · exact smaller nx le_rfl
  · rw [expOf_zeroF32]
    exact Nat.zero_le _
  · exact smaller nx (by omega)
  · exact smaller ny (by omega)

/-- A sum's exponent is above its operands' by no more than two carries. -/
theorem expOf_fadd32_le {x y : F32} {k : Nat} (hx : expOf x ≤ k) (hy : expOf y ≤ k) (hk : k ≤ 251) :
    expOf (fadd32 x y) ≤ k + 3 := by
  have aligned {z : F32} (hz : expOf z ≤ k) (hle : min (scale x) (scale y) ≤ scale z) :
      significand z * 2 ^ (scale z - min (scale x) (scale y)) * 2 ^ (min (scale x) (scale y) + 149) <
        2 ^ (k + 173) := by
    rw [mul_assoc, ← pow_add, ← Nat.add_assoc, Nat.sub_add_cancel hle]
    exact significand_scale_lt hz
  rw [fadd32_of_finite (finiteF32_of_expOf_le hx (by omega)) (finiteF32_of_expOf_le hy (by omega))]
  refine expOf_addFinite_le _ _ (k := k + 1) (by omega) ?_
  rw [Nat.add_mul, show k + 1 + 173 = k + 173 + 1 by omega, pow_succ 2 (k + 173), Nat.mul_two]
  exact Nat.add_lt_add (aligned hx (min_le_left _ _)) (aligned hy (min_le_right _ _))

/-! ## Dequantized values -/

/-- A sample of 16 bits is below 2^17 as a binary32. -/
theorem expOf_f32_le (raw : BitVec 16) : expOf (f32 raw.toNat) ≤ 143 := by
  refine expOf_roundF32_le false (k := 141) (by norm_num) ?_
  rw [show 141 + 173 = 16 + 298 from rfl, pow_add]
  exact Nat.mul_lt_mul_of_pos_right raw.isLt (by positivity)

theorem signOf_f32 {k : Nat} (hk : k < 2 ^ 24) : signOf (f32 k) = false := by
  obtain ⟨-, hvalue⟩ := f32_exact hk
  by_contra hneg
  have hle : valueF32 (f32 k) ≤ 0 := by
    rw [valueF32, if_pos (by simpa using hneg)]
    have : (0 : ℚ) ≤ significand (f32 k) * 2 ^ scale (f32 k) / 2 ^ 149 := by positivity
    linarith
  have hzero : k = 0 := by
    rw [hvalue] at hle
    exact_mod_cast le_antisymm hle (Nat.cast_nonneg k)
  rw [hzero, f32, roundF32_zero] at hneg
  exact hneg (by decide)

theorem factorRom_expOf : ∀ a : BitVec 4, expOf (factorRom a) ≤ 126 := by decide

theorem offsetRom_expOf (v : OffsetVariant) : ∀ a : BitVec 4, expOf (offsetRom v a) ≤ 126 := by
  cases v <;> decide

theorem scfRom_positive : ∀ c : BitVec 6, expOf (scfRom c) ≤ 128 ∧ signOf (scfRom c) = false := by decide

/-- Requantized, every sample of every code is far from overflow (42_dequant_routing.md R141). -/
theorem requant_finite {c : Chan} (hf : expOf c.fac ≤ 126) (ho : expOf c.off ≤ 126) : FiniteF32 c.requant := by
  have hraw := expOf_f32_le c.raw
  have hmul : expOf (fmul32 (f32 c.raw.toNat) c.fac) ≤ 146 :=
    expOf_fmul32_le (finiteF32_of_expOf_le hraw (by norm_num)) (finiteF32_of_expOf_le hf (by norm_num)) hraw hf
      (by norm_num) (by norm_num)
  exact finiteF32_of_expOf_le (expOf_fadd32_le hmul (ho.trans (by norm_num)) (by norm_num)) (by norm_num)

theorem requant_sampled (x : Chan) (v : OffsetVariant) {a : BitVec 4} (ha : a ≠ 0#4) (c : BitVec 6) (raw : Nat) :
    FiniteF32 (x.withAlloc v a |>.scaled c |>.sampled raw).requant := by
  rw [Chan.withAlloc, if_neg ha]
  exact requant_finite (factorRom_expOf a) (offsetRom_expOf v a)

/-- Code 15 has factor and offset +0.0, so the magnitude is +0.0 before any scale factor (30_encoding.md R81). -/
theorem requant_code15 (x : Chan) (v : OffsetVariant) (c : BitVec 6) (raw : BitVec 16) :
    (x.withAlloc v 15#4 |>.scaled c |>.sampled raw.toNat).requant = zeroF32 false := by
  have hfin : FiniteF32 (f32 raw.toNat) := finiteF32_of_expOf_le (expOf_f32_le raw) (by norm_num)
  have hsign : signOf (f32 raw.toNat) = false := signOf_f32 (raw.isLt.trans (by norm_num))
  have hoff : offsetRom v 15#4 = zeroF32 false := by cases v <;> rfl
  have hmul : fmul32 (f32 raw.toNat) (zeroF32 false) = zeroF32 false := by
    rw [fmul32_of_isZero hfin (by unfold FiniteF32; decide) (.inr (by decide)), hsign]
    rfl
  calc (x.withAlloc v 15#4 |>.scaled c |>.sampled raw.toNat).requant
      = fadd32 (fmul32 (f32 (BitVec.ofNat 16 raw.toNat).toNat) (zeroF32 false)) (offsetRom v 15#4) := rfl
    _ = fadd32 (zeroF32 false) (zeroF32 false) := by rw [BitVec.ofNat_toNat, BitVec.setWidth_eq, hmul, hoff]
    _ = zeroF32 false := by decide

/-- Settles O30: code 15 leaves a factor +0.0 to scale, code 63 scales a finite value by +0.0. -/
theorem tolerantCodesYieldZero : Obligations.TolerantCodesYieldZero := by
  intro v a c raw x
  refine ⟨?_, fun ha _ => ?_⟩
  · obtain ⟨hexp, hsign⟩ := scfRom_positive c
    rw [Chan.deq, requant_code15]
    show fmul32 (zeroF32 false) (scfRom c) = zeroF32 false
    rw [fmul32_of_isZero (by unfold FiniteF32; decide) (finiteF32_of_expOf_le hexp (by norm_num)) (.inl (by decide)),
      hsign]
    rfl
  · rw [Chan.deq]
    show isZero (fmul32 _ (zeroF32 false)) = true
    rw [fmul32_of_isZero (requant_sampled x v ha 63#6 raw.toNat) (by unfold FiniteF32; decide) (.inr (by decide))]
    cases signOf _ != signOf _ <;> decide

end Sys2Proof.Proofs
end

section
/-! PROOFS. In a frame the sequencer's uops pass their execute checks and ask the bit reader for 1 to 16 bits only
(spec/30_encoding.md R90; spec/20_memory.md R56; spec/60_exceptions.md R202): what each part of a uop adds to the
trace, and that its fault, if it takes one, is a collaborator's. -/

namespace Sys2Proof.Proofs
open Sys2Proof Sys2Proof.Machine

/-! ## Transactions within width -/

/-- A GetBits among the transactions asks for 1 to 16 bits (20_memory.md R56). -/
def InWidth (x : Txn) : Prop := ∀ n, x = .getBits n → 1 ≤ n ∧ n ≤ 16

theorem inWidth_getBits {n : Nat} (hlo : 1 ≤ n) (hhi : n ≤ 16) : InWidth (.getBits n) := by
  rintro m ⟨⟩
  exact ⟨hlo, hhi⟩

/-- From s to t the trace has grown by transactions within width; FSM and what is outstanding stand. -/
structure Asked (s t : State) : Prop where
  trace : ∃ new, t.trace = s.trace ++ new ∧ ∀ e ∈ new, InWidth e.txn
  outstanding : t.outstanding = s.outstanding
  fsm : t.fsm = s.fsm

theorem Asked.of_same {s t : State} (ht : t.trace = s.trace) (ho : t.outstanding = s.outstanding)
    (hf : t.fsm = s.fsm) : Asked s t :=
  ⟨⟨[], by simp [ht], by simp⟩, ho, hf⟩

theorem Asked.refl (s : State) : Asked s s := .of_same rfl rfl rfl

theorem Asked.trans {s t u : State} (h : Asked s t) (h' : Asked t u) : Asked s u := by
  obtain ⟨new, ht, hn⟩ := h.trace
  obtain ⟨new', hu, hn'⟩ := h'.trace
  refine ⟨⟨new ++ new', by rw [hu, ht, List.append_assoc], fun e he => ?_⟩, h'.outstanding.trans h.outstanding,
    h'.fsm.trans h.fsm⟩
  obtain he | he := List.mem_append.mp he
  · exact hn e he
  · exact hn' e he

theorem Asked.of_record {s t : State} {x : Txn} {r : Completion} (hx : InWidth x)
    (ht : t.trace = s.trace ++ [{ txn := x, result := r }]) (ho : t.outstanding = s.outstanding)
    (hf : t.fsm = s.fsm) : Asked s t :=
  ⟨⟨_, ht, by simpa using hx⟩, ho, hf⟩

/-- A flow whose transactions are within width, and which faults for no illegal uop. -/
def Legal {α : Type} (s : State) : Flow α → Prop
  | .done _ _ t => Asked s t
  | .stop t => ∃ m c x, Asked s m ∧ x ≠ .illegalUop ∧ t = m.uopFault c x
  | .hang x t => Asked s t ∧ InWidth x
  | .pause t => Asked s t

theorem Legal.before {α : Type} {s t : State} {x : Flow α} (h : Asked s t) (hx : Legal t x) : Legal s x := by
  cases x with
  | done a c u => exact h.trans hx
  | stop u =>
    obtain ⟨m, c, y, hm, hy, hu⟩ := hx
    exact ⟨m, c, y, h.trans hm, hy, hu⟩
  | hang y u => exact ⟨h.trans hx.1, hx.2⟩
  | pause u => exact h.trans hx

/-- The next part may use how the one before it went on. -/
theorem Legal.bind {α β : Type} {s : State} {x : Flow α} {f : α → UopCtx → State → Flow β} (hx : Legal s x)
    (hf : ∀ a c t, x = .done a c t → Legal t (f a c t)) : Legal s (x.bind f) := by
  cases x with
  | done a c t => exact Legal.before hx (hf a c t rfl)
  | _ => exact hx

/-! ## The parts of the uops -/

section Parts
variable (c : UopCtx) (i : SbIdx) (s : State)

theorem getBits_legal {n : Nat} (hlo : 1 ≤ n) (hhi : n ≤ 16) : Legal s (getBits c n s) := by
  have hn := inWidth_getBits hlo hhi
  rcases getBits_cases c n s with ⟨v, c', -, h⟩ | h | ⟨c', -, h⟩ <;> rw [h]
  · exact Asked.of_same rfl rfl rfl
  · exact Asked.refl s
  rcases issueGetBits_cases c' n s with ⟨-, -, h⟩ | ⟨-, -, h⟩ | ⟨-, h⟩ <;> rw [h]
  · exact Asked.of_record hn (s.tookBits_trace n) (s.tookBits_outstanding n) (s.tookBits_fsm n)
  · exact ⟨s.foundExhausted n, c', _, .of_record hn (s.foundExhausted_trace n) rfl rfl, by simp, rfl⟩
  · exact ⟨.of_same rfl rfl rfl, hn⟩

theorem transact_legal {x : Txn} (r : Reply) {issued : State} (hx : InWidth x) (hi : Asked s issued) :
    Legal s (transact c x r s issued) := by
  rcases transact_cases c x r s issued with ⟨c', h⟩ | h | ⟨c', -, h⟩ <;> rw [h]
  · exact Asked.refl s
  · exact Asked.refl s
  refine Legal.before hi ?_
  rcases complete_cases c' x r issued with ⟨-, h⟩ | ⟨-, h⟩ | ⟨-, h⟩ <;> rw [h]
  · exact Asked.of_record hx rfl rfl rfl
  · exact ⟨issued.record x .err, c', _, .of_record hx rfl rfl rfl, by simp, rfl⟩
  · exact ⟨.refl issued, hx⟩

theorem asked_advanceFilter (f : Filter) : Asked s (s.advanceFilter f) :=
  .of_same (s.advanceFilter_trace f) (s.advanceFilter_outstanding f) (s.advanceFilter_fsm f)

theorem getCode4_legal : Legal s (getCode4 c s) :=
  (getBits_legal c s (by norm_num) (by norm_num)).bind fun _ _ t _ => Asked.refl t

theorem foldCode_legal (a : BitVec 4) : Legal s (foldCode c a s) := by
  unfold foldCode
  split
  · exact transact_legal c s _ nofun (.of_same rfl rfl rfl)
  · exact Asked.refl s

theorem allocOne_legal : Legal s (allocOne c i s) :=
  (getCode4_legal c s).bind fun a c t _ => (foldCode_legal c t a).bind fun _ _ _ _ => Asked.of_same rfl rfl rfl

theorem allocTwo_legal : Legal s (allocTwo c i s) :=
  (getCode4_legal c s).bind fun a0 c t _ => (getCode4_legal c t).bind fun a1 c u _ =>
  (foldCode_legal c u a0).bind fun _ c w _ => (foldCode_legal c w a1).bind fun _ _ _ _ => Asked.of_same rfl rfl rfl

theorem readScf_legal (k : Ch) : Legal s (readScf c i k s) :=
  (getBits_legal c s (by norm_num) (by norm_num)).bind fun _ _ _ _ => Asked.of_same rfl rfl rfl

theorem scfChannel_legal (k : Ch) : Legal s (scfChannel c i k s) := by
  unfold scfChannel
  split
  · exact readScf_legal c i s k
  · exact Asked.refl s

theorem scfShared_legal : Legal s (scfShared c i s) := by
  unfold scfShared
  split
  · exact (readScf_legal c i s .c0).bind fun _ c t _ => readScf_legal c i t .c1
  · exact Asked.refl s

/-- A channel that SAMPLE reads has a width that its code gave it (41_subband_ops.md R111, R120). -/
def Readable (x : Chan) : Prop := x.a ≠ 0#4 → 1 ≤ x.w.toNat ∧ x.w.toNat ≤ 16

theorem readable_of_allocated {x : Chan} {p : OffsetVariant} (h : x.Allocated p) : Readable x := by
  intro ha
  obtain ⟨-, hcode, -⟩ := h
  have hw := (hcode ha).1
  omega

theorem sampleChannel_legal (k : Ch) (hk : Readable (s.chan i k)) : Legal s (sampleChannel c i k s) := by
  unfold sampleChannel
  split
  · obtain ⟨hlo, hhi⟩ := hk ‹_›
    exact (getBits_legal c s hlo hhi).bind fun _ _ _ _ => Asked.of_same rfl rfl rfl
  · exact Asked.refl s

theorem sampleOne_legal (h0 : Readable (s.entry i).ch0) : Legal s (sampleOne c i s) :=
  (sampleChannel_legal c i s .c0 h0).bind fun _ _ _ _ => Asked.of_same rfl rfl rfl

/-- Channel 1 is read after channel 0 was written, by its own width. -/
theorem sampleTwo_legal (h0 : Readable (s.entry i).ch0) (h1 : Readable (s.entry i).ch1) :
    Legal s (sampleTwo c i s) :=
  (sampleChannel_legal c i s .c0 h0).bind fun _ c t ht => by
    obtain ⟨x, -, hw⟩ := (Wrote.refl s i).sampleChannel ht
    have hchan := hw.granuleStep.chan .c1
    have hread := sampleChannel_legal c i (t.granuleStep i) .c1 (by rw [hchan]; exact h1)
    exact hread.before (.of_same (t := t.granuleStep i) rfl rfl rfl)

theorem emit_legal (vs : List (Filter × F32)) : Legal s (emit c i vs s) := by
  have hinject : Legal s (injectAll c i vs s) := by
    induction vs generalizing c s with
    | nil => exact Asked.refl s
    | cons v vs ih =>
      exact (transact_legal c s (x := .inject v.1 i v.2) _ nofun (asked_advanceFilter s v.1)).bind fun _ c t _ => ih c t
  exact hinject.bind fun _ _ _ _ => Asked.of_same rfl rfl rfl

theorem checked_legal {v : Variant} (hv : s.Names i v) {f : UopCtx → State → Flow Unit} (hf : Legal s (f c s)) :
    Legal s ((checkEntry c i v s).bind fun _ c t => f c t) := by
  rw [checkEntry_ok hv.1 hv.2]
  exact hf

end Parts

/-! ## The uops, by kind -/

section Uops
variable {v : Variant} {i : SbIdx} {s : State} (c : UopCtx)

theorem createSb_legal : Legal s (uopBody (createSbInstr v i) c s) := by
  cases v <;> exact Asked.of_same rfl rfl rfl

variable (hv : s.Names i v)
include hv

theorem alloc_legal : Legal s (uopBody (allocInstr v i) c s) := by
  cases v with
  | mono => exact checked_legal c i s hv (allocOne_legal c i s)
  | st => exact checked_legal c i s hv (allocTwo_legal c i s)
  | is => exact checked_legal c i s hv (allocOne_legal c i s)

theorem scfsi_legal : Legal s (uopBody (scfsiInstr v i) c s) := by
  have hcheck : Legal s (checkEntry c i v s) := by
    rw [checkEntry_ok hv.1 hv.2]
    exact Asked.refl s
  cases v <;> exact hcheck

theorem scf_legal : Legal s (uopBody (scfInstr v i) c s) := by
  cases v with
  | mono => exact checked_legal c i s hv (scfChannel_legal c i s .c0)
  | st =>
    exact checked_legal c i s hv (f := fun c s => (scfChannel c i .c0 s).bind fun _ c t => scfChannel c i .c1 t)
      ((scfChannel_legal c i s .c0).bind fun _ c t _ => scfChannel_legal c i t .c1)
  | is => exact checked_legal c i s hv (scfShared_legal c i s)

theorem sample_legal (h0 : Readable (s.entry i).ch0) (h1 : Readable (s.entry i).ch1) :
    Legal s (uopBody (sampleInstr v i) c s) := by
  cases v with
  | mono => exact checked_legal c i s hv (sampleOne_legal c i s h0)
  | st => exact checked_legal c i s hv (sampleTwo_legal c i s h0 h1)
  | is => exact checked_legal c i s hv (sampleOne_legal c i s h0)

theorem put_legal : Legal s (uopBody (putInstr v i) c s) := by
  cases v with
  | mono => exact checked_legal c i s hv (emit_legal c i s (monoValues s i))
  | st => exact checked_legal c i s hv (emit_legal c i s (stValues s i))
  | is => exact checked_legal c i s hv (emit_legal c i s (isValues s i))

end Uops

theorem synth_legal (f : Filter) (c : UopCtx) (s : State) : Legal s (synth c f s) :=
  transact_legal c s _ nofun (asked_advanceFilter s f)

/-! ## The uop that SEQ names -/

/-- In a frame, the uop that SEQ names finds its entry valid and of its variant (43_frame_sequencer.md R163). -/
theorem legal_of_nextUop {s : State} {u : Instr} (h : s.FrameRegs) (hu : s.nextUop = some u) (c : UopCtx) :
    Legal s (uopBody u c s) := by
  have own (hf : s.fsm ≠ .init) : s.Names s.seqI s.seqVar ∧ (s.entry s.seqI).FieldsOf s.params.offsetVariant := by
    obtain ⟨⟨hvalid, hvar, hfields⟩, -⟩ := own_seqI h hf
    exact ⟨⟨hvalid, hvar⟩, hfields⟩
  unfold State.nextUop at hu
  cases hf : s.fsm <;> simp only [hf] at hu
  case init => cases hu; exact createSb_legal c
  case allocate => cases hu; exact alloc_legal c (own (by simp [hf])).1
  case scaleSelect => cases hu; exact scfsi_legal c (own (by simp [hf])).1
  case scaleFactors => cases hu; exact scf_legal c (own (by simp [hf])).1
  case sampleLoop =>
    obtain ⟨hv, h0, -, h1, -⟩ := own (by simp [hf])
    cases hp : s.seqPh <;> simp only [hp] at hu <;> cases hu
    case read => exact sample_legal c hv (readable_of_allocated h0) (readable_of_allocated h1)
    case put => exact put_legal c hv
    case synA => exact synth_legal .a c s
    case synB => exact synth_legal .b c s
  all_goals cases hu

/-- From s to t no ILLEGAL_UOP was raised and every GetBits issued is within width, completed or outstanding. -/
structure StepLegal (s t : State) : Prop where
  noIllegal : ¬ (t.fsm = .error ∧ t.cause = .illegalUop)
  trace : ∃ new, t.trace = s.trace ++ new ∧ ∀ e ∈ new, InWidth e.txn
  outstanding : ∀ x, t.outstanding = some x → InWidth x

theorem Asked.stepLegal {s t : State} (h : Asked s t) (ho : s.outstanding = none) (hf : s.fsm ≠ .error) :
    StepLegal s t :=
  ⟨fun he => hf (h.fsm.symm.trans he.1), h.trace, fun x hx => by simp [h.outstanding, ho] at hx⟩

theorem Legal.partUop {s : State} {u : Instr} (h : Legal s (uopBody u (s.uopCtx (encode u)) s))
    (ho : s.outstanding = none) (hf : s.fsm ≠ .error) (d : Option Word) : StepLegal s (s.partUop d u) := by
  unfold State.partUop
  cases hx : uopBody u (s.uopCtx (encode u)) s <;> rw [hx] at h
  case done a c t => exact Asked.stepLegal ⟨h.trace, h.outstanding, h.fsm⟩ ho hf
  case stop t =>
    obtain ⟨m, c, x, hm, hne, rfl⟩ := h
    exact ⟨fun he => hne he.2, hm.trace, fun y hy => by simp [hm.outstanding, ho] at hy⟩
  case hang x t =>
    obtain ⟨ht, hx⟩ := h
    refine ⟨fun he => hf he.1, ht.trace, fun y hy => ?_⟩
    cases hy
    exact hx
  case pause t => exact Asked.stepLegal ⟨h.trace, rfl, rfl⟩ ho hf

@[simp] theorem advance_trace (s : State) : s.advance.trace = s.trace := by rw [advance_eq]
@[simp] theorem advance_outstanding (s : State) : s.advance.outstanding = s.outstanding := by rw [advance_eq]

/-- SEQ's move enters no error state. -/
theorem advance_fsm_ne_error {s : State} (h : s.fsm ≠ .error) : s.advance.fsm ≠ .error := by
  unfold State.advance State.passGuard State.advanceLoop State.endPass State.nextSubband
  repeat' split
  all_goals simp_all

theorem StepLegal.afterUop {s t : State} (h : StepLegal s t) : StepLegal s t.afterUop := by
  by_cases hf : t.fsm = .error
  · rwa [afterUop_of_error hf]
  rcases afterUop_cases t with he | he <;> rw [he]
  · exact h
  · exact ⟨fun hi => advance_fsm_ne_error hf hi.1, by rw [advance_trace]; exact h.trace,
      by rw [advance_outstanding]; exact h.outstanding⟩

/-- Settles O54: the frame invariant makes the uop that SEQ names a legal one. -/
theorem sequencerIssuesOnlyLegalUops : Obligations.SequencerIssuesOnlyLegalUops := by
  intro s t hs hb ho hm hrst h
  have he := s.sampleInputs_eq
  have hb' : s.sampleInputs.busy = true := by rw [he]; exact hb
  have ho' : s.sampleInputs.outstanding = none := by rw [he]; exact ho
  have htrace : s.sampleInputs.trace = s.trace := by rw [he]
  obtain ⟨u, hu⟩ := Option.isSome_iff_exists.mp ((isSome_nextUop s.sampleInputs).trans hb')
  have hne : s.sampleInputs.fsm ≠ .error := fun hf => by simp [State.busy, Fsm.isBusy, hf] at hb'
  have hstep : step s = issueNext u s.sampleInputs := runSampled_sequenced hrst ho' hm hu
  rw [hstep, issueNext_eq (port_of_nextUop hu)] at h
  cases h
  have hlegal := (legal_of_nextUop (frameInv_sampleInputs hs hb' ho') hu _).partUop ho' hne none
  obtain ⟨hcause, ⟨new, hnew, hwidth⟩, hout⟩ := hlegal.afterUop
  exact ⟨hcause, ⟨new, htrace ▸ hnew, fun e he n hn => hwidth e he n hn⟩, fun n hn => hout _ hn n rfl⟩

end Sys2Proof.Proofs
end

section
/-! PROOFS. The subband uops one by one (spec/41_subband_ops.md R110 to R123). A uop's outcome is read off its parts:
one rule per part and way it goes, and the rules chained in the order of the transactions. -/

namespace Sys2Proof.Proofs
open Sys2Proof Sys2Proof.Machine

/-! ## The words of the subband uops -/

/-- The fields of a uop word, put side by side, are the shifted fields of R86 joined. -/
theorem fields_eq_or (opc : BitVec 4) (var : BitVec 2) (z : BitVec 5) (sb : SbIdx) :
    opc ++ var ++ z ++ sb =
      opc.setWidth 16 <<< 12 ||| var.setWidth 16 <<< 10 ||| z.setWidth 16 <<< 5 ||| sb.setWidth 16 := by
  have h := BitVec.setWidth_append_append_append_eq_shiftLeft_setWidth_or
    (b := opc) (b' := var) (b'' := z) (b''' := sb) (w'''' := 16)
  rwa [BitVec.setWidth_eq] at h

/-- A uop's word is its pattern with SB in the low bits (30_encoding.md R86, R88). -/
theorem uopWord_eq_or (opc : BitVec 4) (var : BitVec 2) (sb : SbIdx) :
    uopWord opc var sb = uopWord opc var 0#5 ||| sb.setWidth 16 := by
  unfold uopWord
  rw [fields_eq_or, fields_eq_or]
  simp

/-- VAR = 3 and a nonzero Z name no uop of OPC 1 (30_encoding.md R90). -/
theorem decodeUop_createSb_illegal (sb : SbIdx) {var : BitVec 2} {z : BitVec 5} (h : var = 3#2 ∨ z ≠ 0#5) :
    decodeUop (1#4 ++ var ++ z ++ sb) = none := by
  have hz : zOf (1#4 ++ var ++ z ++ sb) = z :=
    (field_above (1#4 ++ var ++ z) sb (start := 0)).trans BitVec.extractLsb'_append_eq_right
  have hvar : varOf (1#4 ++ var ++ z ++ sb) = var :=
    (field_above (1#4 ++ var ++ z) sb (start := 5)).trans <|
      (field_above (1#4 ++ var) z (start := 0)).trans BitVec.extractLsb'_append_eq_right
  have hopc : opcOf (1#4 ++ var ++ z ++ sb) = 1#4 :=
    (field_above (1#4 ++ var ++ z) sb (start := 7)).trans <|
      (field_above (1#4 ++ var) z (start := 2)).trans BitVec.extractLsb'_append_eq_left
  rw [← Option.not_isSome_iff_eq_none, isSome_decodeUop, hz, hvar, hopc]
  rintro ⟨hz0, ⟨h7, -⟩ | ⟨-, -, hv3⟩⟩
  · exact absurd h7 (by decide)
  · exact h.elim hv3 (· hz0)

/-! ## Entries written one channel at a time -/

section Entries
variable (s : State) (i : SbIdx)

/-- Both channels written. -/
theorem setChan_setChan (x y : Chan) :
    (s.setChan i .c0 x).setChan i .c1 y = s.setEntry i { s.entry i with ch0 := x, ch1 := y } := by
  simp [State.setChan, SbEntry.withCh]

/-- R122 as it is written, as one update. -/
theorem counted_eq (e : SbEntry) :
    s.counted i e =
      { s.setEntry i { e with gcnt := nextGcnt e.gcnt } with rready := readReadyAt e.gcnt } := by
  unfold State.counted nextGcnt readReadyAt
  split <;> simp_all

theorem granuleStep_eq_counted : s.granuleStep i = s.counted i (s.entry i) := (counted_eq s i _).symm

variable (e : SbEntry)

theorem granuleStep_setEntry : (s.setEntry i e).granuleStep i = s.counted i e := by
  rw [State.granuleStep, State.entry_setEntry_same, State.setEntry_setEntry, counted_eq]

theorem chan_counted (k : Ch) : (s.counted i e).chan i k = e.ch k := by
  rw [← granuleStep_setEntry, State.chan, State.entry_granuleStep_same, State.entry_setEntry_same]
  cases k <;> rfl

theorem br_counted : (s.counted i e).br = s.br := by rw [counted_eq]; rfl

theorem tookBits_counted (n : Nat) : (s.counted i e).tookBits n = (s.tookBits n).counted i e := by
  rw [counted_eq, counted_eq]; rfl

/-- A channel is written before or after GranuleStep alike. -/
theorem setChan_counted (k : Ch) (x : Chan) : (s.counted i e).setChan i k x = s.counted i (e.withCh k x) := by
  rw [← granuleStep_setEntry, State.setChan, State.entry_granuleStep_same, State.entry_setEntry_same, counted_eq]
  cases k <;> simp [State.granuleStep, State.setEntry, State.entry, SbEntry.withCh]

end Entries

/-! ## SetAlloc -/

theorem toNat_widthOf (a : BitVec 4) : (widthOf a).toNat = a.toNat + 1 := by
  simp only [widthOf, BitVec.toNat_add, BitVec.toNat_setWidth, BitVec.toNat_ofNat]
  omega

/-- Settles O16: the two branches of `Chan.withAlloc`; code 15 by the last words of the ROMs. -/
theorem setAllocFields : Obligations.SetAllocFields := by
  intro c v a
  have hnonzero (ha : a ≠ 0#4) : c.withAlloc v a =
      { c with a := a, w := widthOf a, fac := factorRom a, off := offsetRom v a } := if_neg ha
  refine ⟨fun ha => by rw [Chan.withAlloc, if_pos ha, ha], fun ha => ?_, fun ha => ?_⟩
  · rw [hnonzero ha]
    exact ⟨toNat_widthOf a, rfl⟩
  · subst ha
    rw [hnonzero (by decide)]
    cases v <;> exact ⟨rfl, rfl, rfl⟩

/-! ## The granule counter over many steps -/

/-- t is s but for GCNT of entry i and RREADY (41_subband_ops.md R122). -/
def SameButCounter (s : State) (i : SbIdx) (t : State) : Prop :=
  ∃ g r, t = { s.setEntry i { s.entry i with gcnt := g } with rready := r }

theorem SameButCounter.refl (s : State) (i : SbIdx) : SameButCounter s i s :=
  ⟨(s.entry i).gcnt, s.rready, by rw [State.setEntry_entry]⟩

theorem SameButCounter.granuleStep {s t : State} {i : SbIdx} (h : SameButCounter s i t) :
    SameButCounter s i (t.granuleStep i) := by
  obtain ⟨g, r, rfl⟩ := h
  exact ⟨nextGcnt g, readReadyAt g, by simp [State.granuleStep, State.setEntry, State.entry]⟩

theorem SameButCounter.eq {s t : State} {i : SbIdx} (h : SameButCounter s i t) :
    t = { s.setEntry i { s.entry i with gcnt := (t.entry i).gcnt } with rready := t.rready } := by
  obtain ⟨g, r, rfl⟩ := h
  simp [State.setEntry, State.entry]

section Iterate
variable (s : State) (i : SbIdx)

theorem sameButCounter_iterate (k : Nat) : SameButCounter s i ((fun u => u.granuleStep i)^[k] s) := by
  induction k with
  | zero => exact .refl s i
  | succ k ih =>
    rw [Function.iterate_succ_apply']
    exact ih.granuleStep

variable {s i}

theorem gcnt_iterate (h : (s.entry i).gcnt = 0#4) (k : Nat) :
    (((fun u => u.granuleStep i)^[k] s).entry i).gcnt.toNat = k % 12 := by
  induction k with
  | zero => simp [h]
  | succ k ih =>
    rw [Function.iterate_succ_apply', State.entry_granuleStep_same, toNat_nextGcnt (by omega), ih]
    omega

/-- The twelfth step and every later twelfth sets RREADY. -/
theorem rready_iterate (h : (s.entry i).gcnt = 0#4) (k : Nat) :
    ((fun u => u.granuleStep i)^[k + 1] s).rready = true ↔ (k + 1) % 12 = 0 := by
  have hg := gcnt_iterate h k
  rw [Function.iterate_succ_apply', State.granuleStep_rready, readReadyAt_eq (by omega), hg, decide_eq_true_iff]
  omega

end Iterate

/-- Settles O25: by induction on the number of steps. -/
theorem granuleCounterWrapsAtTwelve : Obligations.GranuleCounterWrapsAtTwelve := fun s i =>
  ⟨granuleStep_eq_counted s i, fun k h =>
    ⟨gcnt_iterate h (k + 1), rready_iterate h k, (sameButCounter_iterate s i (k + 1)).eq⟩⟩

/-! ## A part that goes on, and one that ends the uop -/

section Chain
variable {α β : Type} {x : Flow α} {f : α → UopCtx → State → Flow β}

theorem bind_of_done {a : α} {c : UopCtx} {t : State} {y : Flow β} (h : x = .done a c t) (hf : f a c t = y) :
    x.bind f = y := by
  rw [h]; exact hf

theorem bind_of_stop {t : State} (h : x = .stop t) : x.bind f = .stop t := by rw [h]; rfl

end Chain

/-! ## The parts of the subband uops, run whole -/

section Parts
variable {w : Word} {i : SbIdx} {k : Ch} {x : Chan} {e : SbEntry} {a : BitVec 4} {s : State}

theorem entry_tookBits (s : State) (n : Nat) (i : SbIdx) : (s.tookBits n).entry i = s.entry i :=
  s.entry_congr (s.tookBits_sb n) i

theorem getCode4_has (hr : s.br.replies.next = .answers) (hh : s.br.has 4 = true) :
    getCode4 (UopCtx.fresh w) s = .done (BitVec.ofNat 4 (s.field 4)) (UopCtx.fresh w) (s.tookBits 4) :=
  bind_of_done (issueGetBits_has hr hh) rfl

theorem getCode4_exhausted (hr : s.br.replies.next = .answers) (hh : s.br.has 4 = false) :
    getCode4 (UopCtx.fresh w) s = .stop ((s.foundExhausted 4).uopFault (UopCtx.fresh w) .bitstreamExhausted) :=
  bind_of_stop (issueGetBits_exhausted hr hh)

@[simp] theorem crcDone_sb (r : Completion) : (s.crcDone a r).sb = s.sb := rfl
@[simp] theorem crcDone_params (r : Completion) : (s.crcDone a r).params = s.params := rfl

theorem foldCode_absent {c : UopCtx} (hp : s.crcPresent = false) : foldCode c a s = .done () c s := by
  simp [foldCode, hp]

theorem foldCode_ok (hp : s.crcPresent = true) (hk : s.crc.next = .ok) :
    foldCode (UopCtx.fresh w) a s = .done () (UopCtx.fresh w) (s.crcDone a .ok) := by
  rw [foldCode, if_pos hp, crcAdd, transact_fresh, hk]
  rfl

theorem foldCode_err (hp : s.crcPresent = true) (hk : s.crc.next = .err) :
    foldCode (UopCtx.fresh w) a s = .stop ((s.crcDone a .err).uopFault (UopCtx.fresh w) .collaboratorError) := by
  rw [foldCode, if_pos hp, crcAdd, transact_fresh, hk]
  rfl

/-- ALLOC's store into channel 0, at a state m with the entries and parameters of s (41_subband_ops.md R112). -/
theorem setAlloc_eq {m : State} (hsb : m.sb = s.sb) (hp : m.params = s.params) (a : BitVec 4) :
    m.setAlloc i .c0 a =
      m.setEntry i { s.entry i with ch0 := (s.entry i).ch0.withAlloc s.params.offsetVariant a } := by
  rw [← s.entry_congr hsb, ← hp]
  rfl

/-- ALLOC.ST's two stores (41_subband_ops.md R113). -/
theorem setAlloc_setAlloc {m : State} (hsb : m.sb = s.sb) (hp : m.params = s.params) (a0 a1 : BitVec 4) :
    (m.setAlloc i .c0 a0).setAlloc i .c1 a1 = m.setEntry i { s.entry i with
      ch0 := (s.entry i).ch0.withAlloc s.params.offsetVariant a0
      ch1 := (s.entry i).ch1.withAlloc s.params.offsetVariant a1 } := by
  rw [← s.entry_congr hsb, ← hp, State.setAlloc, State.setAlloc, State.chan_setChan_otherCh _ _ (by decide),
    setChan_setChan]
  rfl

/-- ALLOC.ST past its two reads (41_subband_ops.md R113). -/
theorem allocTwo_reads (hr : s.br.replies.next = .answers) (hr1 : (s.tookBits 4).br.replies.next = .answers)
    (hh : s.br.has 4 = true) (hh1 : (s.tookBits 4).br.has 4 = true) :
    let a0 := BitVec.ofNat 4 (s.field 4)
    let a1 := BitVec.ofNat 4 ((s.tookBits 4).field 4)
    allocTwo (UopCtx.fresh w) i s =
      (foldCode (UopCtx.fresh w) a0 ((s.tookBits 4).tookBits 4)).bind fun _ c s => (foldCode c a1 s).bind fun _ c s =>
        .done () c ((s.setAlloc i .c0 a0).setAlloc i .c1 a1) :=
  bind_of_done (getCode4_has hr hh) (bind_of_done (getCode4_has hr1 hh1) rfl)

theorem readScf_has (hx : s.chan i k = x) (hr : s.br.replies.next = .answers) (hh : s.br.has 6 = true) :
    readScf (UopCtx.fresh w) i k s =
      .done () (UopCtx.fresh w) ((s.tookBits 6).setChan i k (x.scaled (BitVec.ofNat 6 (s.field 6)))) :=
  bind_of_done (issueGetBits_has hr hh) (hx ▸ rfl)

theorem readScf_exhausted (hr : s.br.replies.next = .answers) (hh : s.br.has 6 = false) :
    readScf (UopCtx.fresh w) i k s = .stop ((s.foundExhausted 6).uopFault (UopCtx.fresh w) .bitstreamExhausted) :=
  bind_of_stop (issueGetBits_exhausted hr hh)

/-- Channel 1 is as it was when channel 0 has been written. -/
theorem chan_c1_setChan_c0 (he : s.entry i = e) : (s.setChan i .c0 x).chan i .c1 = e.ch1 := by
  rw [State.chan_setChan_otherCh _ _ (by decide), State.chan, he]
  rfl

/-- Channel 1's scale factor after channel 0's: the entry holds both. -/
theorem readScf_second (he : s.entry i = e) (hr : s.br.replies.next = .answers) (hh : s.br.has 6 = true) :
    readScf (UopCtx.fresh w) i .c1 (s.setChan i .c0 x) =
      .done () (UopCtx.fresh w) ((s.tookBits 6).setEntry i { e with
        ch0 := x, ch1 := e.ch1.scaled (BitVec.ofNat 6 (s.field 6)) }) := by
  subst he
  rw [readScf_has (chan_c1_setChan_c0 rfl) hr hh]
  exact congrArg _ (setChan_setChan (s.tookBits 6) i x _)

/-- Channel 1's read finds the bit reader where channel 0's left it. -/
theorem readScf_second_exhausted (hr : s.br.replies.next = .answers) (hh : s.br.has 6 = false) :
    readScf (UopCtx.fresh w) i .c1 (s.setChan i .c0 x) =
      .stop (((s.setChan i .c0 x).foundExhausted 6).uopFault (UopCtx.fresh w) .bitstreamExhausted) :=
  readScf_exhausted hr hh

theorem scfChannel_skip {c : UopCtx} (hx : s.chan i k = x) (ha : x.a = 0#4) :
    scfChannel c i k s = .done () c s := by
  simp [scfChannel, hx, ha]

theorem scfChannel_read {c : UopCtx} (hx : s.chan i k = x) (ha : x.a ≠ 0#4) :
    scfChannel c i k s = readScf c i k s := by
  subst hx
  exact if_pos ha

theorem scfChannel_has (hx : s.chan i k = x) (ha : x.a ≠ 0#4) (hr : s.br.replies.next = .answers)
    (hh : s.br.has 6 = true) :
    scfChannel (UopCtx.fresh w) i k s =
      .done () (UopCtx.fresh w) ((s.tookBits 6).setChan i k (x.scaled (BitVec.ofNat 6 (s.field 6)))) :=
  (scfChannel_read hx ha).trans (readScf_has hx hr hh)

theorem scfChannel_exhausted (hx : s.chan i k = x) (ha : x.a ≠ 0#4) (hr : s.br.replies.next = .answers)
    (hh : s.br.has 6 = false) :
    scfChannel (UopCtx.fresh w) i k s =
      .stop ((s.foundExhausted 6).uopFault (UopCtx.fresh w) .bitstreamExhausted) :=
  (scfChannel_read hx ha).trans (readScf_exhausted hr hh)

/-- SCF.IS past its gate (41_subband_ops.md R119). -/
theorem scfShared_read {c : UopCtx} (ha : (s.entry i).ch0.a ≠ 0#4) :
    scfShared c i s = (readScf c i .c0 s).bind fun _ c s => readScf c i .c1 s :=
  if_pos ha

theorem scfShared_skip {c : UopCtx} (ha : (s.entry i).ch0.a = 0#4) : scfShared c i s = .done () c s :=
  if_neg (not_not_intro ha)

theorem sampleChannel_skip {c : UopCtx} (hx : s.chan i k = x) (ha : x.a = 0#4) :
    sampleChannel c i k s = .done () c s := by
  simp [sampleChannel, hx, ha]

theorem sampleChannel_has (hx : s.chan i k = x) (ha : x.a ≠ 0#4) (hr : s.br.replies.next = .answers)
    (hh : s.br.has x.w.toNat = true) :
    sampleChannel (UopCtx.fresh w) i k s =
      .done () (UopCtx.fresh w) ((s.tookBits x.w.toNat).setChan i k (x.sampled (s.field x.w.toNat))) := by
  subst hx
  exact (if_pos ha).trans (bind_of_done (issueGetBits_has hr hh) rfl)

theorem sampleChannel_exhausted (hx : s.chan i k = x) (ha : x.a ≠ 0#4) (hr : s.br.replies.next = .answers)
    (hh : s.br.has x.w.toNat = false) :
    sampleChannel (UopCtx.fresh w) i k s =
      .stop ((s.foundExhausted x.w.toNat).uopFault (UopCtx.fresh w) .bitstreamExhausted) := by
  subst hx
  exact (if_pos ha).trans (bind_of_stop (issueGetBits_exhausted hr hh))

/-- Channel 1's sample after GranuleStep: the entry is counted with the sample in it. -/
theorem sampleChannel_counted_has (ha : e.ch1.a ≠ 0#4) (hr : s.br.replies.next = .answers)
    (hh : s.br.has e.ch1.w.toNat = true) :
    sampleChannel (UopCtx.fresh w) i .c1 (s.counted i e) =
      .done () (UopCtx.fresh w)
        ((s.tookBits e.ch1.w.toNat).counted i { e with ch1 := e.ch1.sampled (s.field e.ch1.w.toNat) }) := by
  have hbr := br_counted s i e
  rw [sampleChannel_has (chan_counted s i e .c1) ha (by rwa [hbr]) (by rwa [hbr]), tookBits_counted, setChan_counted,
    State.field, hbr]
  rfl

theorem sampleChannel_counted_exhausted (ha : e.ch1.a ≠ 0#4) (hr : s.br.replies.next = .answers)
    (hh : s.br.has e.ch1.w.toNat = false) :
    sampleChannel (UopCtx.fresh w) i .c1 (s.counted i e) =
      .stop (((s.counted i e).foundExhausted e.ch1.w.toNat).uopFault (UopCtx.fresh w) .bitstreamExhausted) := by
  have hbr := br_counted s i e
  exact sampleChannel_exhausted (chan_counted s i e .c1) ha (by rwa [hbr]) (by rwa [hbr])

/-- SAMPLE.ST past its first read (41_subband_ops.md R121). -/
theorem sampleTwo_skip {c : UopCtx} (ha : (s.entry i).ch0.a = 0#4) :
    sampleTwo c i s = sampleChannel c i .c1 (s.counted i (s.entry i)) :=
  bind_of_done (sampleChannel_skip rfl ha) (by rw [granuleStep_eq_counted])

theorem sampleTwo_has (ha : (s.entry i).ch0.a ≠ 0#4) (hr : s.br.replies.next = .answers)
    (hh : s.br.has (s.entry i).ch0.w.toNat = true) :
    sampleTwo (UopCtx.fresh w) i s = sampleChannel (UopCtx.fresh w) i .c1
      ((s.tookBits (s.entry i).ch0.w.toNat).counted i
        { s.entry i with ch0 := (s.entry i).ch0.sampled (s.field (s.entry i).ch0.w.toNat) }) := by
  refine bind_of_done (sampleChannel_has rfl ha hr hh) ?_
  rw [← granuleStep_setEntry]
  rfl

end Parts

/-! ## A uop from its parts -/

section Uops
variable {u : Instr} {i : SbIdx} {v : Variant} {f : UopCtx → State → Flow Unit} {s t : State}

theorem uopFault_faulted (m : State) (u : Instr) (cause : Cause) :
    UopFaulted m u cause (m.uopFault (UopCtx.fresh (encode u)) cause) := rfl

/-- The uop u checks entry i for the variant v, then does f (30_encoding.md R90). -/
def Checked (u : Instr) (i : SbIdx) (v : Variant) (f : UopCtx → State → Flow Unit) : Prop :=
  ∀ s, exec u s = runUop u (fun c s => (checkEntry c i v s).bind fun _ c s => f c s) s

theorem Checked.unnamed (hu : Checked u i v f) (hn : ¬ s.Names i v) : FaultsAt (exec u s) s u .illegalUop :=
  ⟨_, by rw [hu, runUop_eq, checkEntry_bad hn, Flow.bind_stop, Flow.settle_stop], uopFault_faulted s u .illegalUop⟩

/-- Past its checks the uop is f alone. -/
theorem Checked.run (hu : Checked u i v f) (hn : s.Names i v) :
    exec u s = .next ((f (UopCtx.fresh (encode u)) s).settle s) := by
  rw [hu, runUop_eq, checkEntry_ok hn.1 hn.2, Flow.bind_done]

theorem Checked.done (hu : Checked u i v f) (hn : s.Names i v) {c : UopCtx}
    (h : f (UopCtx.fresh (encode u)) s = .done () c t) : exec u s = .next t := by
  rw [hu.run hn, h, Flow.settle_done]

/-- Where f ends in the state t, the uop faults at any m that t is a fault of. -/
theorem Checked.stop (hu : Checked u i v f) (hn : s.Names i v) {m : State} {cause : Cause}
    (h : f (UopCtx.fresh (encode u)) s = .stop t) (ht : UopFaulted m u cause t) : FaultsAt (exec u s) m u cause :=
  ⟨t, by rw [hu.run hn, h, Flow.settle_stop], ht⟩

/-- Where f ends in a fault at m, the uop faults there. -/
theorem Checked.fault (hu : Checked u i v f) (hn : s.Names i v) {m : State} {cause : Cause}
    (h : f (UopCtx.fresh (encode u)) s = .stop (m.uopFault (UopCtx.fresh (encode u)) cause)) :
    FaultsAt (exec u s) m u cause :=
  hu.stop hn h (uopFault_faulted m u cause)

/-- What a uop had written before its fault is not to be seen: the entries are unspecified (60_exceptions.md
R204). -/
theorem uopFault_setChan_faulted (m : State) (i : SbIdx) (k : Ch) (x : Chan) (n : Nat) (u : Instr) (cause : Cause) :
    UopFaulted (m.foundExhausted n) u cause
      (((m.setChan i k x).foundExhausted n).uopFault (UopCtx.fresh (encode u)) cause) := rfl

theorem allocOne_checked (h : (u = .allocMono i ∧ v = .mono) ∨ (u = .allocIs i ∧ v = .is)) :
    Checked u i v fun c s => allocOne c i s := by
  obtain ⟨rfl, rfl⟩ | ⟨rfl, rfl⟩ := h <;> exact fun _ => rfl

theorem sampleOne_checked (h : (u = .sampleMono i ∧ v = .mono) ∨ (u = .sampleIs i ∧ v = .is)) :
    Checked u i v fun c s => sampleOne c i s := by
  obtain ⟨rfl, rfl⟩ | ⟨rfl, rfl⟩ := h <;> exact fun _ => rfl

theorem scfsi_checked (v : Variant) (i : SbIdx) : Checked (scfsiInstr v i) i v fun c m => .done () c m := by
  intro s
  have hbody : exec (scfsiInstr v i) s = runUop (scfsiInstr v i) (fun c s => checkEntry c i v s) s := by
    cases v <;> rfl
  rw [hbody, runUop_eq, runUop_eq]
  rcases checkEntry_cases (UopCtx.fresh (encode (scfsiInstr v i))) i v s with ⟨-, -, h⟩ | ⟨-, h⟩
  · rw [h, Flow.bind_done]
  · rw [h, Flow.bind_stop]

end Uops

/-! ## The statements -/

/-- Settles O15: the words by their fields; the rest is `createSb`. -/
theorem createSbWritesEveryField : Obligations.CreateSbWritesEveryField := by
  intro i s
  refine ⟨⟨uopWord_eq_or _ _ i, uopWord_eq_or _ _ i, uopWord_eq_or _ _ i, fun v z h => ?_⟩, rfl, rfl, rfl⟩
  rw [← decodeUop_createSb_illegal i h, fields_eq_or]
  rfl

/-- Settles O17: one read, one fold, one store. -/
theorem allocOneCode : Obligations.AllocOneCode := by
  intro i s
  refine ⟨uopWord_eq_or _ _ i, uopWord_eq_or _ _ i, fun u v h => ?_⟩
  have hu := allocOne_checked h
  refine ⟨hu.unnamed, fun hn hr hh => hu.fault hn (bind_of_stop (getCode4_exhausted hr hh)), fun hn hr hh => ?_⟩
  refine ⟨fun hp => ?_, fun hp hk => ?_, fun hp hk => ?_⟩
  · exact hu.done hn (bind_of_done (getCode4_has hr hh)
      (bind_of_done (foldCode_absent hp) (congrArg _ (setAlloc_eq (by simp) (by simp) _))))
  · exact hu.done hn (bind_of_done (getCode4_has hr hh)
      (bind_of_done (foldCode_ok hp hk) (congrArg _ (setAlloc_eq (by simp) (by simp) _))))
  · exact hu.fault hn (bind_of_done (getCode4_has hr hh) (bind_of_stop (foldCode_err hp hk)))

/-- Settles O18: two reads, two folds, two stores. -/
theorem allocStTwoCodes : Obligations.AllocStTwoCodes := by
  intro i s
  have hu : Checked (.allocSt i) i .st fun c s => allocTwo c i s := fun _ => rfl
  refine ⟨uopWord_eq_or _ _ i, hu.unnamed,
    fun hn hr hh => hu.fault hn (bind_of_stop (getCode4_exhausted hr hh)),
    fun hn hr hh hr1 hh1 =>
      hu.fault hn (bind_of_done (getCode4_has hr hh) (bind_of_stop (getCode4_exhausted hr1 hh1))),
    fun hn hr hr1 hh hh1 => ?_⟩
  have hreads := allocTwo_reads (w := encode (.allocSt i)) (i := i) hr hr1 hh hh1
  have hcrcPresent : ((s.tookBits 4).tookBits 4).crcPresent = s.crcPresent := by simp
  have hcrc : ((s.tookBits 4).tookBits 4).crc = s.crc := by simp
  have hsb : ((s.tookBits 4).tookBits 4).sb = s.sb := by simp
  have hparams : ((s.tookBits 4).tookBits 4).params = s.params := by simp
  rw [← hcrcPresent, ← hcrc]
  generalize (s.tookBits 4).tookBits 4 = m at *
  refine ⟨fun hp => ?_, fun hp hk => ?_, fun hp hk hk1 => ?_, fun hp hk hk1 => ?_⟩
  · exact hu.done hn (hreads.trans (bind_of_done (foldCode_absent hp)
      (bind_of_done (foldCode_absent hp) (congrArg _ (setAlloc_setAlloc (by simpa) (by simpa) _ _)))))
  · exact hu.fault hn (hreads.trans (bind_of_stop (foldCode_err hp hk)))
  · exact hu.fault hn (hreads.trans (bind_of_done (foldCode_ok hp hk) (bind_of_stop (foldCode_err hp hk1))))
  · exact hu.done hn (hreads.trans (bind_of_done (foldCode_ok hp hk)
      (bind_of_done (foldCode_ok hp hk1) (congrArg _ (setAlloc_setAlloc (by simpa) (by simpa) _ _)))))

/-- Settles O19: each variant's checks, and nothing after them. -/
theorem scfsiDoesNothing : Obligations.ScfsiDoesNothing := fun i _ =>
  ⟨uopWord_eq_or _ _ i, uopWord_eq_or _ _ i, uopWord_eq_or _ _ i, fun hn => (scfsi_checked .mono i).done hn rfl,
    fun hn => (scfsi_checked .st i).done hn rfl, fun hn => (scfsi_checked .is i).done hn rfl,
    (scfsi_checked .mono i).unnamed, (scfsi_checked .st i).unnamed, (scfsi_checked .is i).unnamed⟩

/-- Settles O20: one gated read. -/
theorem scfMonoReadsGated : Obligations.ScfMonoReadsGated := by
  intro i s
  have hu : Checked (.scfMono i) i .mono fun c s => scfChannel c i .c0 s := fun _ => rfl
  exact ⟨uopWord_eq_or _ _ i, hu.unnamed, fun hn ha => hu.done hn (scfChannel_skip rfl ha),
    fun hn ha hr hh => hu.fault hn (scfChannel_exhausted rfl ha hr hh),
    fun hn ha hr hh => hu.done hn (scfChannel_has rfl ha hr hh)⟩

/-- Settles O21: two gated reads, the four combinations of the gates apart. -/
theorem scfStGatesEachChannel : Obligations.ScfStGatesEachChannel := by
  intro i s
  have hu : Checked (.scfSt i) i .st fun c s => (scfChannel c i .c0 s).bind fun _ c s => scfChannel c i .c1 s :=
    fun _ => rfl
  have he := entry_tookBits s 6 i
  refine ⟨uopWord_eq_or _ _ i, hu.unnamed, fun hn ha0 ha1 => ?_, fun hn ha hr hh => ?_, fun hn ha0 ha1 hr hh => ?_,
    fun hn ha0 ha1 hr hh => ?_, fun hn ha0 ha1 hr hh hr1 => ⟨fun hh1 => ?_, fun hh1 => ?_⟩⟩
  · exact hu.done hn (bind_of_done (scfChannel_skip rfl ha0) (scfChannel_skip rfl ha1))
  · by_cases ha0 : (s.entry i).ch0.a = 0#4
    · have ha1 := ha.resolve_left (not_not_intro ha0)
      exact hu.fault hn (bind_of_done (scfChannel_skip rfl ha0) (scfChannel_exhausted rfl ha1 hr hh))
    · exact hu.fault hn (bind_of_stop (scfChannel_exhausted rfl ha0 hr hh))
  · exact hu.done hn (bind_of_done (scfChannel_has rfl ha0 hr hh) (scfChannel_skip (chan_c1_setChan_c0 he) ha1))
  · exact hu.done hn (bind_of_done (scfChannel_skip rfl ha0) (scfChannel_has rfl ha1 hr hh))
  · exact hu.stop hn (bind_of_done (scfChannel_has rfl ha0 hr hh)
      ((scfChannel_read (chan_c1_setChan_c0 he) ha1).trans (readScf_second_exhausted hr1 hh1)))
      (uopFault_setChan_faulted ..)
  · exact hu.done hn (bind_of_done (scfChannel_has rfl ha0 hr hh)
      ((scfChannel_read (chan_c1_setChan_c0 he) ha1).trans (readScf_second he hr1 hh1)))

/-- Settles O22: two reads behind the one gate. -/
theorem scfIsSharedGate : Obligations.ScfIsSharedGate := by
  intro i s
  have hu : Checked (.scfIs i) i .is fun c s => scfShared c i s := fun _ => rfl
  have he := entry_tookBits s 6 i
  refine ⟨uopWord_eq_or _ _ i, hu.unnamed, fun hn ha => hu.done hn (scfShared_skip ha), fun hn ha hr hh => ?_,
    fun hn ha hr hh hr1 => ⟨fun hh1 => ?_, fun hh1 => ?_⟩⟩
  · exact hu.fault hn ((scfShared_read ha).trans (bind_of_stop (readScf_exhausted hr hh)))
  · exact hu.stop hn ((scfShared_read ha).trans
      (bind_of_done (readScf_has rfl hr hh) (readScf_second_exhausted hr1 hh1))) (uopFault_setChan_faulted ..)
  · exact hu.done hn ((scfShared_read ha).trans (bind_of_done (readScf_has rfl hr hh) (readScf_second he hr1 hh1)))

/-- Settles O23: one gated read, then GranuleStep. -/
theorem sampleOneChannel : Obligations.SampleOneChannel := by
  intro i s
  refine ⟨uopWord_eq_or _ _ i, uopWord_eq_or _ _ i, fun u v h => ?_⟩
  have hu := sampleOne_checked h
  refine ⟨hu.unnamed, fun hn ha => ?_, fun hn ha hr hh => ?_, fun hn ha hr hh => ?_⟩
  · rw [← granuleStep_eq_counted]
    exact hu.done hn (bind_of_done (sampleChannel_skip rfl ha) rfl)
  · exact hu.fault hn (bind_of_stop (sampleChannel_exhausted rfl ha hr hh))
  · rw [← granuleStep_setEntry]
    exact hu.done hn (bind_of_done (sampleChannel_has rfl ha hr hh) rfl)

/-- Settles O24: the first read by its gate, then the second on the counted entry. -/
theorem sampleStTwoChannels : Obligations.SampleStTwoChannels := by
  intro i s
  have hu : Checked (.sampleSt i) i .st fun c s => sampleTwo c i s := fun _ => rfl
  refine ⟨uopWord_eq_or _ _ i, hu.unnamed, fun hn ha0 ha1 => ?_, fun hn ha0 hr hh => ?_, fun hn ha0 ha1 hr hh => ?_,
    fun hn ha0 ha1 hr => ⟨fun hh => ?_, fun hh => ?_⟩,
    fun hn ha0 ha1 hr hh hr1 => ⟨fun hh1 => ?_, fun hh1 => ?_⟩⟩
  · exact hu.done hn ((sampleTwo_skip ha0).trans (sampleChannel_skip (chan_counted ..) ha1))
  · exact hu.fault hn (bind_of_stop (sampleChannel_exhausted rfl ha0 hr hh))
  · exact hu.done hn ((sampleTwo_has ha0 hr hh).trans (sampleChannel_skip (chan_counted ..) ha1))
  · exact hu.fault hn ((sampleTwo_skip ha0).trans (sampleChannel_counted_exhausted ha1 hr hh))
  · exact hu.done hn ((sampleTwo_skip ha0).trans (sampleChannel_counted_has ha1 hr hh))
  · exact hu.fault hn ((sampleTwo_has ha0 hr hh).trans (sampleChannel_counted_exhausted ha1 hr1 hh1))
  · exact hu.done hn ((sampleTwo_has ha0 hr hh).trans (sampleChannel_counted_has ha1 hr1 hh1))

end Sys2Proof.Proofs
end

section
/-! PROOFS. PUT and SYNTH (spec/42_dequant_routing.md R140 to R150): what an Inject or a Synth on a filter does, once
per completion; the Injects of a PUT in the order of the routing table; and the uops from these. -/

namespace Sys2Proof.Proofs
open Sys2Proof Sys2Proof.Machine

/-! ## One transaction on a filter's port -/

section Ports
variable {w : Word} {f : Filter} {x : Txn} {s : State}

theorem complete_filter_ok (h : (s.filterScript f).next = .ok) :
    complete (UopCtx.fresh w) x (s.filterScript f).next (s.advanceFilter f) =
      .done () (UopCtx.fresh w) ((s.advanceFilter f).record x .ok) := by
  rw [h]; rfl

theorem complete_filter_err (h : (s.filterScript f).next = .err) :
    complete (UopCtx.fresh w) x (s.filterScript f).next (s.advanceFilter f) =
      .stop (((s.advanceFilter f).record x .err).uopFault (UopCtx.fresh w) .collaboratorError) := by
  rw [h]; rfl

theorem complete_filter_never (h : (s.filterScript f).next = .never) :
    complete (UopCtx.fresh w) x (s.filterScript f).next (s.advanceFilter f) = .hang x (s.advanceFilter f) := by
  rw [h]; rfl

end Ports

/-! ## The Injects of a PUT -/

section Emit
variable {w : Word} {i : SbIdx} {s : State} {f : Filter} {x : F32} {vs : List (Filter × F32)}

theorem emit_nil (c : UopCtx) : emit c i [] s = .done () c s.setWready := rfl

/-- Past one Inject the rest are emitted as a PUT of their own. -/
theorem emit_cons_ok (h : (s.filterScript f).next = .ok) :
    emit (UopCtx.fresh w) i ((f, x) :: vs) s =
      emit (UopCtx.fresh w) i vs ((s.advanceFilter f).record (.inject f i x) .ok) := by
  rw [emit, injectAll, inject, transact_fresh, complete_filter_ok h]
  rfl

theorem emit_cons_err (h : (s.filterScript f).next = .err) :
    emit (UopCtx.fresh w) i ((f, x) :: vs) s =
      .stop (((s.advanceFilter f).record (.inject f i x) .err).uopFault (UopCtx.fresh w) .collaboratorError) := by
  rw [emit, injectAll, inject, transact_fresh, complete_filter_err h]
  rfl

theorem emit_cons_never (h : (s.filterScript f).next = .never) :
    emit (UopCtx.fresh w) i ((f, x) :: vs) s = .hang (.inject f i x) (s.advanceFilter f) := by
  rw [emit, injectAll, inject, transact_fresh, complete_filter_never h]
  rfl

end Emit

/-! ## Routing -/

theorem routeMono_of_ne_right {sel : Sel} (h : sel ≠ .rightOnly) (v : F32) : routeMono sel v = [(.a, v)] := by
  cases sel with
  | both => rfl
  | leftOnly => rfl
  | rightOnly => exact absurd rfl h

/-- Unless SEL is RightOnly, the left value goes to filter A first. -/
theorem routeTwo_of_ne_right {sel : Sel} (h : sel ≠ .rightOnly) (l r : F32) :
    ∃ vs, routeTwo sel l r = (.a, l) :: vs := by
  cases sel with
  | both => exact ⟨_, rfl⟩
  | leftOnly => exact ⟨_, rfl⟩
  | rightOnly => exact absurd rfl h

/-- Settles O26: one Inject or none, by SEL. -/
theorem putMonoInjects : Obligations.PutMonoInjects := by
  intro i s
  have hu : Checked (.putMono i) i .mono fun c s => emit c i (routeMono s.sel (s.chan i .c0).deq) s := fun _ => rfl
  refine ⟨uopWord_eq_or _ _ i, hu.unnamed, fun hn hs => ?_, fun hn hs ha => ?_, fun hn hs ha => ?_,
    fun hn hs ha => ?_⟩
  · have hroute : routeMono s.sel (s.chan i .c0).deq = [] := by rw [hs]; rfl
    exact hu.done hn (by rw [hroute]; exact emit_nil _)
  · exact hu.done hn (by rw [routeMono_of_ne_right hs]; exact emit_cons_ok ha)
  · exact hu.fault hn (by rw [routeMono_of_ne_right hs]; exact emit_cons_err ha)
  · rw [hu.run hn, routeMono_of_ne_right hs, emit_cons_never (f := .a) ha]
    rfl

/-- The uop u checks entry i for the variant v, and then sends the values l and r the ways of two channels
(42_dequant_routing.md R142, R144, R145). -/
structure SendsTwo (u : Instr) (i : SbIdx) (v : Variant) (l r : F32) (s : State) : Prop where
  unnamed : ¬ s.Names i v → FaultsAt (exec u s) s u .illegalUop
  left_err : s.Names i v → s.sel ≠ .rightOnly → s.fa.next = .err →
    FaultsAt (exec u s) (s.aDone (.inject .a i l) .err) u .collaboratorError
  right_err : s.Names i v → s.sel = .rightOnly → s.fa.next = .err →
    FaultsAt (exec u s) (s.aDone (.inject .a i r) .err) u .collaboratorError
  left_ok : s.Names i v → s.sel = .leftOnly → s.fa.next = .ok →
    exec u s = .next (s.aDone (.inject .a i l) .ok).setWready
  right_ok : s.Names i v → s.sel = .rightOnly → s.fa.next = .ok →
    exec u s = .next (s.aDone (.inject .a i r) .ok).setWready
  both_ok : s.Names i v → s.sel = .both → s.fa.next = .ok → s.fb.next = .ok →
    exec u s = .next ((s.aDone (.inject .a i l) .ok).bDone (.inject .b i r) .ok).setWready
  both_err : s.Names i v → s.sel = .both → s.fa.next = .ok → s.fb.next = .err →
    FaultsAt (exec u s) ((s.aDone (.inject .a i l) .ok).bDone (.inject .b i r) .err) u .collaboratorError

/-- Each SEL gives one list of Injects, and each Inject completes or faults. -/
theorem Checked.sendsTwo {u : Instr} {i : SbIdx} {v : Variant} {l r : State → F32}
    (hu : Checked u i v fun c s => emit c i (routeTwo s.sel (l s) (r s)) s) (s : State) :
    SendsTwo u i v (l s) (r s) s where
  unnamed := hu.unnamed
  left_err hn hs ha := by
    obtain ⟨vs, hroute⟩ := routeTwo_of_ne_right hs (l s) (r s)
    exact hu.fault hn (by rw [hroute]; exact emit_cons_err ha)
  right_err hn hs ha := hu.fault hn (by rw [hs]; exact emit_cons_err ha)
  left_ok hn hs ha := hu.done hn (by rw [hs]; exact emit_cons_ok ha)
  right_ok hn hs ha := hu.done hn (by rw [hs]; exact emit_cons_ok ha)
  both_ok hn hs ha hb := hu.done hn (by rw [hs]; exact (emit_cons_ok (f := .a) ha).trans (emit_cons_ok (f := .b) hb))
  both_err hn hs ha hb := hu.fault hn (by rw [hs]; exact (emit_cons_ok (f := .a) ha).trans (emit_cons_err (f := .b) hb))

/-- PUT.ST sends its two channels' values (42_dequant_routing.md R144). -/
theorem putSt_sendsTwo (i : SbIdx) (s : State) :
    SendsTwo (.putSt i) i .st (s.entry i).ch0.deq (s.entry i).ch1.deq s :=
  Checked.sendsTwo (l := fun s => (s.chan i .c0).deq) (r := fun s => (s.chan i .c1).deq) (fun _ => rfl) s

/-- PUT.IS sends the one magnitude under its two scale factors (42_dequant_routing.md R145). -/
theorem putIs_sendsTwo (i : SbIdx) (s : State) :
    SendsTwo (.putIs i) i .is (s.entry i).ch0.deq (fmul32 (s.entry i).ch0.requant (s.entry i).ch1.scf) s :=
  Checked.sendsTwo (l := fun s => (s.chan i .c0).deq)
    (r := fun s => fmul32 (s.chan i .c0).requant (s.chan i .c1).scf) (fun _ => rfl) s

/-- Settles O27: each channel's value is its own. -/
theorem putStRoutes : Obligations.PutStRoutes := fun i s =>
  have h := putSt_sendsTwo i s
  ⟨uopWord_eq_or _ _ i, h.unnamed, h.left_err, h.right_err, h.left_ok, h.right_ok,
    fun hn hs ha => ⟨h.both_ok hn hs ha, h.both_err hn hs ha⟩⟩

/-- Settles O28: both values are channel 0's magnitude. -/
theorem putIsSteers : Obligations.PutIsSteers := fun i s =>
  have h := putIs_sendsTwo i s
  ⟨uopWord_eq_or _ _ i, h.unnamed, h.left_err, h.right_err, h.left_ok, h.right_ok,
    fun hn hs ha => ⟨h.both_ok hn hs ha, h.both_err hn hs ha⟩⟩

/-! ## Channels of code 0 -/

/-- One Inject on entry i that completed, in the trace. -/
def injected (i : SbIdx) (p : Filter × F32) : Event := { txn := .inject p.1 i p.2, result := .ok }

/-- Where no Inject fails, the trace has the routed values in order. -/
theorem SendsTwo.trace {u : Instr} {i : SbIdx} {v : Variant} {l r : F32} {s : State} (h : SendsTwo u i v l r s)
    (hn : s.Names i v) (ha : s.fa.next = .ok) (hb : s.fb.next = .ok) :
    ∃ t, exec u s = .next t ∧ t.trace = s.trace ++ (routeTwo s.sel l r).map (injected i) := by
  cases hs : s.sel with
  | both => exact ⟨_, h.both_ok hn hs ha hb, List.append_assoc ..⟩
  | leftOnly => exact ⟨_, h.left_ok hn hs ha, rfl⟩
  | rightOnly => exact ⟨_, h.right_ok hn hs ha, rfl⟩

theorem chanZero_deq : Chan.zero.deq = 0x00000000#32 := by decide

/-- Settles O29: creation values dequantize to +0.0, which goes the way of any other value. -/
theorem zeroCodeInjectsZero : Obligations.ZeroCodeInjectsZero := by
  intro i s ha hb silent put two e
  have htwo (x y : F32) : two x y = (routeTwo s.sel x y).map (injected i) := by
    simp only [two]
    cases s.sel <;> rfl
  have hdeq {c : Chan} (hc : silent c) : c.deq = 0x00000000#32 := (congrArg Chan.deq hc).trans chanZero_deq
  refine ⟨fun hn h0 => ?_, fun hn => ?_, fun hn h0 h1 => ?_⟩
  · obtain ⟨-, -, hright, hok, -⟩ := putMonoInjects i s
    by_cases hs : s.sel = .rightOnly
    · exact ⟨_, hright hn hs, by simp [hs]⟩
    · refine ⟨_, hok hn hs ha, ?_⟩
      rw [if_neg hs, ← hdeq h0]
      rfl
  · obtain ⟨t, ht, htrace⟩ := (putSt_sendsTwo i s).trace hn ha hb
    exact ⟨t, _, _, ht, htrace.trans (by rw [htwo]), hdeq, hdeq⟩
  · obtain ⟨t, ht, htrace⟩ := (putIs_sendsTwo i s).trace hn ha hb
    have hscf : e.ch1.scf = e.ch0.scf := congrArg Chan.scf (h1.trans h0.symm)
    have hright : fmul32 e.ch0.requant e.ch1.scf = 0x00000000#32 := by rw [hscf]; exact hdeq h0
    exact ⟨t, ht, htrace.trans (by rw [htwo, hdeq h0, hright])⟩

/-! ## SYNTH -/

section Synth
variable {u : Instr} {f : Filter} {s : State} (hu : ∀ s, exec u s = runUop u (fun c s => synth c f s) s)
include hu

theorem exec_synth_ok (h : (s.filterScript f).next = .ok) :
    exec u s = .next ((s.advanceFilter f).record (.synth f) .ok) := by
  rw [hu, runUop_eq, synth, transact_fresh, complete_filter_ok h, Flow.settle_done]

theorem exec_synth_err (h : (s.filterScript f).next = .err) :
    FaultsAt (exec u s) ((s.advanceFilter f).record (.synth f) .err) u .collaboratorError :=
  ⟨_, by rw [hu, runUop_eq, synth, transact_fresh, complete_filter_err h, Flow.settle_stop], uopFault_faulted ..⟩

theorem exec_synth_never (h : (s.filterScript f).next = .never) :
    exec u s = .next { s.withPorts (s.advanceFilter f) with outstanding := some (.synth f) } := by
  rw [hu, runUop_eq, synth, transact_fresh, complete_filter_never h, Flow.settle_hang]

end Synth

/-- Settles O33: SYNTH is one Synth, with no checks before it. -/
theorem synthTriggersFilter : Obligations.SynthTriggersFilter := by
  intro s
  have hA (s : State) : exec .synthA s = runUop .synthA (fun c s => synth c .a s) s := rfl
  have hB (s : State) : exec .synthB s = runUop .synthB (fun c s => synth c .b s) s := rfl
  exact ⟨rfl, rfl, exec_synth_ok hA, exec_synth_ok hB, exec_synth_err hA, exec_synth_err hB, exec_synth_never hA,
    exec_synth_never hB⟩

end Sys2Proof.Proofs
end

section
/-! PROOFS. Dequantized values away from binary32's ends (spec/42_dequant_routing.md R147, R148). An offset is no
power of two, so a sum with it is a zero or at least one of its last places: requantized, a sample is a zero or at
least 2^-24. Times a scale factor it then stays normal, and rounding commutes with the powers of two by which scale
factors of one residue modulo 3 differ. -/

namespace Sys2Proof.Proofs
open Sys2Proof Sys2Proof.Machine

/-! ## Exponents from below -/

/-- A value of at least `2^(k + 171)` units of 2^-298 rounds to an exponent of at least k. -/
theorem le_expOf_roundF32 (neg : Bool) {m y k : Nat} (hlo : 2 ≤ k) (hhi : k ≤ 255)
    (h : 2 ^ (k + 171) ≤ m * 2 ^ y) :
    k ≤ expOf (roundF32 neg m y) := by
  have hm : m ≠ 0 := by
    rintro rfl
    rw [Nat.zero_mul] at h
    exact (Nat.two_pow_pos _).not_ge h
  have hlog : k + 171 < m.log2 + 1 + y := by
    refine (Nat.pow_lt_pow_iff_right (by norm_num : 1 < 2)).mp (h.trans_lt ?_)
    rw [pow_add 2 (m.log2 + 1)]
    gcongr
    exact Nat.lt_log2_self
  have hplace : k + 148 ≤ lastPlace m y := by unfold lastPlace; omega
  have hpattern : k * 2 ^ 23 ≤ (lastPlace m y - 149) * 2 ^ 23 + kept m y := by
    have := le_kept hm (y := y) (by omega)
    omega
  rw [roundF32_of_ne_zero neg y hm]
  split
  · exact hhi.trans (by cases neg <;> decide)
  · obtain ⟨-, hexp, -⟩ := fields_ofNat neg (p := (lastPlace m y - 149) * 2 ^ 23 + kept m y) (by omega)
    rw [hexp]
    omega

/-- A normal value has the hidden bit at its exponent. -/
theorem normal_fields {x : F32} {k : Nat} (hk : 1 ≤ k) (h : k ≤ expOf x) :
    2 ^ 23 ≤ significand x ∧ scale x = expOf x - 1 := by
  unfold significand scale
  rw [if_neg (by omega), if_neg (by omega)]
  exact ⟨by omega, rfl⟩

/-- The pattern is a zero, or its exponent is at least k. -/
def ZeroOrFrom (k : Nat) (x : F32) : Prop := isZero x = true ∨ k ≤ expOf x

theorem isZero_zeroF32 (neg : Bool) : isZero (zeroF32 neg) = true := by cases neg <;> decide

/-- Two magnitudes that are equal or lie `2^(k + 171)` units apart give a sum that is a zero or has an exponent of at
least k, whatever the signs. -/
theorem addFinite_zeroOrFrom (nx ny : Bool) {mx my y k : Nat} (hlo : 2 ≤ k) (hhi : k ≤ 255)
    (hmy : 2 ^ (k + 171) ≤ my * 2 ^ y)
    (hapart : mx * 2 ^ y = my * 2 ^ y ∨ mx * 2 ^ y + 2 ^ (k + 171) ≤ my * 2 ^ y ∨
      my * 2 ^ y + 2 ^ (k + 171) ≤ mx * 2 ^ y) : ZeroOrFrom k (addFinite nx ny mx my y) := by
  have hpos : 0 < 2 ^ (k + 171) := by positivity
  unfold addFinite
  split_ifs with hsign heq hlt
  · refine .inr (le_expOf_roundF32 _ hlo hhi ?_)
    rw [Nat.add_mul]
    omega
  · exact .inl (isZero_zeroF32 false)
  · have hle : my * 2 ^ y ≤ mx * 2 ^ y := Nat.mul_le_mul_right _ hlt.le
    have hne : mx * 2 ^ y ≠ my * 2 ^ y := fun h => heq (Nat.eq_of_mul_eq_mul_right (by positivity) h)
    refine .inr (le_expOf_roundF32 _ hlo hhi ?_)
    rw [Nat.sub_mul]
    omega
  · have hle : mx * 2 ^ y ≤ my * 2 ^ y := Nat.mul_le_mul_right _ (not_lt.mp hlt)
    have hne : mx * 2 ^ y ≠ my * 2 ^ y := fun h => heq (Nat.eq_of_mul_eq_mul_right (by positivity) h)
    refine .inr (le_expOf_roundF32 _ hlo hhi ?_)
    rw [Nat.sub_mul]
    omega

/-- Of two multiples of y's last place one is a place above the other unless they are equal; a value of a lower last
place is a place below every y that is above its power of two. -/
theorem magnitudes_apart {x y : F32} (hy : 2 ^ 23 < significand y) :
    significand x * 2 ^ (scale x + 149) = significand y * 2 ^ (scale y + 149) ∨
    significand x * 2 ^ (scale x + 149) + 2 ^ (scale y + 149) ≤ significand y * 2 ^ (scale y + 149) ∨
    significand y * 2 ^ (scale y + 149) + 2 ^ (scale y + 149) ≤ significand x * 2 ^ (scale x + 149) := by
  obtain hle | hlt := le_or_gt (scale y) (scale x)
  · have hx : significand x * 2 ^ (scale x + 149) =
        significand x * 2 ^ (scale x - scale y) * 2 ^ (scale y + 149) := by
      rw [mul_assoc, ← pow_add, ← Nat.add_assoc, Nat.sub_add_cancel hle]
    rw [hx, ← Nat.succ_mul, ← Nat.succ_mul]
    obtain h | h | h := lt_trichotomy (significand x * 2 ^ (scale x - scale y)) (significand y)
    · exact .inr (.inl (Nat.mul_le_mul_right _ h))
    · exact .inl (by rw [h])
    · exact .inr (.inr (Nat.mul_le_mul_right _ h))
  · have hx : significand x * 2 ^ (scale x + 149) < 2 ^ 23 * 2 ^ (scale y + 149) :=
      calc significand x * 2 ^ (scale x + 149) < 2 ^ 24 * 2 ^ (scale x + 149) := by
            gcongr
            exact significand_lt x
        _ = 2 ^ 23 * 2 ^ (scale x + 1 + 149) := by ring
        _ ≤ 2 ^ 23 * 2 ^ (scale y + 149) := by
            gcongr
            · norm_num
            · exact hlt
    have hstep : (2 ^ 23 + 1) * 2 ^ (scale y + 149) ≤ significand y * 2 ^ (scale y + 149) :=
      Nat.mul_le_mul_right _ hy
    generalize 2 ^ (scale y + 149) = d at *
    omega

/-- A sum with a normal y that is no power of two is a zero, or no smaller than one last place of y. -/
theorem fadd32_zeroOrFrom {x y : F32} {k : Nat} (hk : 2 ≤ k) (hx : FiniteF32 x) (hy : FiniteF32 y)
    (hexp : expOf y = k + 23) (hfrac : fracOf y ≠ 0) : ZeroOrFrom k (fadd32 x y) := by
  have hle : expOf y ≤ 255 := by rw [expOf_eq]; omega
  have hscale : scale y + 149 = k + 171 := by unfold scale; rw [if_neg (by omega)]; omega
  have hsig : 2 ^ 23 < significand y := by unfold significand; rw [if_neg (by omega)]; omega
  have aligned {z : F32} (he : min (scale x) (scale y) ≤ scale z) :
      significand z * 2 ^ (scale z - min (scale x) (scale y)) * 2 ^ (min (scale x) (scale y) + 149) =
        significand z * 2 ^ (scale z + 149) := by
    rw [mul_assoc, ← pow_add, ← Nat.add_assoc, Nat.sub_add_cancel he]
  rw [fadd32_of_finite hx hy]
  refine addFinite_zeroOrFrom _ _ hk (by omega) ?_ ?_
  · rw [aligned (min_le_right _ _), hscale]
    exact Nat.le_mul_of_pos_left _ (by omega)
  · rw [aligned (min_le_left _ _), aligned (min_le_right _ _), ← hscale]
    exact magnitudes_apart hsig

/-- The exponents of a product's normal operands add up, less the bias. -/
theorem le_expOf_fmul32 {x y : F32} {j k n : Nat} (hx : FiniteF32 x) (hy : FiniteF32 y) (hj : 1 ≤ j) (hk : 1 ≤ k)
    (hjx : j ≤ expOf x) (hky : k ≤ expOf y) (hn : 2 ≤ n) (hhi : n ≤ 255) (h : n + 127 ≤ j + k) :
    n ≤ expOf (fmul32 x y) := by
  obtain ⟨hsigx, hscalex⟩ := normal_fields hj hjx
  obtain ⟨hsigy, hscaley⟩ := normal_fields hk hky
  rw [fmul32_of_finite hx hy]
  refine le_expOf_roundF32 _ hn hhi ?_
  calc 2 ^ (n + 171) ≤ 2 ^ (23 + 23 + (scale x + scale y)) := Nat.pow_le_pow_right (by norm_num) (by omega)
    _ = 2 ^ 23 * 2 ^ 23 * 2 ^ (scale x + scale y) := by rw [pow_add, pow_add 2 23]
    _ ≤ significand x * significand y * 2 ^ (scale x + scale y) :=
        Nat.mul_le_mul_right _ (Nat.mul_le_mul hsigx hsigy)

/-! ## Requantized samples -/

/-- An offset is 0, and so is its factor, or its magnitude lies strictly between 1/2 and 1 (20_memory.md R50, R51). -/
theorem roms_zero_or_offset (v : OffsetVariant) : ∀ a : BitVec 4,
    (factorRom a = zeroF32 false ∧ offsetRom v a = zeroF32 false) ∨
      (expOf (offsetRom v a) = 126 ∧ fracOf (offsetRom v a) ≠ 0) := by
  cases v <;> decide

theorem expOf_fmul32_factorRom_le (raw : BitVec 16) (a : BitVec 4) :
    expOf (fmul32 (f32 raw.toNat) (factorRom a)) ≤ 146 := by
  have hraw := expOf_f32_le raw
  have hfac := factorRom_expOf a
  exact expOf_fmul32_le (finiteF32_of_expOf_le hraw (by norm_num)) (finiteF32_of_expOf_le hfac (by norm_num)) hraw hfac
    (by norm_num) (by norm_num)

section Requant
variable {c : Chan} {v : OffsetVariant} {a : BitVec 4} (hf : c.fac = factorRom a) (ho : c.off = offsetRom v a)
include hf ho

/-- Far below overflow (42_dequant_routing.md R148). -/
theorem expOf_requant_le : expOf c.requant ≤ 149 := by
  have hoff : expOf (offsetRom v a) ≤ 146 := (offsetRom_expOf v a).trans (by norm_num)
  rw [Chan.requant, hf, ho]
  exact expOf_fadd32_le (expOf_fmul32_factorRom_le c.raw a) hoff (by norm_num)

/-- A requantized sample is a zero or at least 2^-24. -/
theorem requant_zeroOrFrom : ZeroOrFrom 103 c.requant := by
  rw [Chan.requant, hf, ho]
  obtain ⟨hfac0, hoff0⟩ | ⟨hexp, hfrac⟩ := roms_zero_or_offset v a
  · have hraw : FiniteF32 (f32 c.raw.toNat) := finiteF32_of_expOf_le (expOf_f32_le c.raw) (by norm_num)
    rw [hfac0, hoff0, fmul32_of_isZero hraw (by unfold FiniteF32; decide) (.inr (isZero_zeroF32 false))]
    left
    cases signOf _ != signOf _ <;> decide
  · have hmul : FiniteF32 (fmul32 (f32 c.raw.toNat) (factorRom a)) :=
      finiteF32_of_expOf_le (expOf_fmul32_factorRom_le c.raw a) (by norm_num)
    exact fadd32_zeroOrFrom (by norm_num) hmul (finiteF32_of_expOf_le hexp.le (by norm_num)) hexp hfrac

end Requant

/-! ## Dequantized values -/

theorem scfRom_from : ∀ c : BitVec 6, c ≠ 63#6 → 107 ≤ expOf (scfRom c) := by decide

theorem finiteF32_scfRom (c : BitVec 6) : FiniteF32 (scfRom c) :=
  finiteF32_of_expOf_le (scfRom_positive c).1 (by norm_num)

/-- Zero, or finite and normal (42_dequant_routing.md R148). -/
def Ordinary (y : F32) : Prop := FiniteF32 y ∧ (isZero y = true ∨ 1 ≤ expOf y)

theorem ordinary_zeroF32 (neg : Bool) : Ordinary (zeroF32 neg) :=
  ⟨finiteF32_of_expOf_le (expOf_zeroF32 neg).le (by norm_num), .inl (isZero_zeroF32 neg)⟩

theorem finiteF32_fmul32_scfRom {x : F32} (hx : expOf x ≤ 149) (c : BitVec 6) : FiniteF32 (fmul32 x (scfRom c)) :=
  finiteF32_of_expOf_le (expOf_fmul32_le (finiteF32_of_expOf_le hx (by norm_num)) (finiteF32_scfRom c) hx
    (scfRom_positive c).1 (n := 152) (by norm_num) (by norm_num)) (by norm_num)

/-- Every scale factor leaves a value of requantized size ordinary. -/
theorem ordinary_fmul32_scfRom {x : F32} (hle : expOf x ≤ 149) (hfrom : ZeroOrFrom 103 x) (c : BitVec 6) :
    Ordinary (fmul32 x (scfRom c)) := by
  have hx : FiniteF32 x := finiteF32_of_expOf_le hle (by norm_num)
  obtain hzero | hge := hfrom
  · rw [fmul32_of_isZero hx (finiteF32_scfRom c) (.inl hzero)]
    exact ordinary_zeroF32 _
  by_cases hc : c = 63#6
  · rw [fmul32_of_isZero hx (finiteF32_scfRom c) (.inr (by rw [hc]; decide))]
    exact ordinary_zeroF32 _
  · have hnormal := le_expOf_fmul32 hx (finiteF32_scfRom c) (by norm_num) (by norm_num) hge (scfRom_from c hc)
      (n := 83) (by norm_num) (by norm_num) (by norm_num)
    exact ⟨finiteF32_fmul32_scfRom hle c, .inr (by omega)⟩

theorem ordinary_deq {x : Chan} {v : OffsetVariant} {a : BitVec 4} {c : BitVec 6} (hf : x.fac = factorRom a)
    (ho : x.off = offsetRom v a) (hs : x.scf = scfRom c) : Ordinary x.deq := by
  rw [Chan.deq, hs]
  exact ordinary_fmul32_scfRom (expOf_requant_le hf ho) (requant_zeroOrFrom hf ho) c

/-- A nonzero code fetches its factor and offset (41_subband_ops.md R111). -/
theorem withAlloc_roms (x : Chan) (v : OffsetVariant) {a : BitVec 4} (ha : a ≠ 0#4) :
    (x.withAlloc v a).fac = factorRom a ∧ (x.withAlloc v a).off = offsetRom v a := by
  rw [Chan.withAlloc, if_neg ha]
  exact ⟨rfl, rfl⟩

/-- Settles O31: the zeros of a channel's creation are ROM words too, factor 0, offset 0 and scale factor 63; every
other code takes its own. -/
theorem dequantizedValuesAreOrdinary : Obligations.DequantizedValuesAreOrdinary := by
  intro v a c raw x ordinary created
  have hoff : created.off = offsetRom v 0#4 := by cases v <;> rfl
  refine ⟨?_, ?_, fun ha _ => ?_⟩
  · exact ordinary_deq (a := 0#4) (c := 63#6) rfl hoff rfl
  · exact ordinary_deq (a := 0#4) rfl hoff rfl
  · obtain ⟨hfac, hoff⟩ := withAlloc_roms x v ha
    exact ordinary_deq hfac hoff rfl

/-! ## Scale factors of one residue modulo 3 -/

/-- Above the subnormals the last place follows the exponent. -/
theorem lastPlace_eq {m y : Nat} (h : 172 ≤ y + m.log2) : lastPlace m y + 23 = y + m.log2 := by
  unfold lastPlace; omega

/-- There a power of two leaves what is kept. -/
theorem kept_eq_of_normal {m y z : Nat} (hy : 172 ≤ y + m.log2) (hz : 172 ≤ z + m.log2) : kept m y = kept m z := by
  have hlpy := lastPlace_eq hy
  have hlpz := lastPlace_eq hz
  have hup : y - lastPlace m y = z - lastPlace m z := by omega
  have hdown : lastPlace m y - y = lastPlace m z - z := by omega
  have hle : lastPlace m y ≤ y ↔ lastPlace m z ≤ z := by omega
  simp only [kept, hup, hdown, hle]

/-- Rounded at two exponents, one significand gives two values in the ratio of the powers of two. -/
theorem valueF32_roundF32_mul {neg : Bool} {m d y z : Nat} (hm : m ≠ 0) (hy : 172 ≤ d + y + m.log2)
    (hz : 172 ≤ d + z + m.log2) (hfiny : FiniteF32 (roundF32 neg m (d + y)))
    (hfinz : FiniteF32 (roundF32 neg m (d + z))) :
    valueF32 (roundF32 neg m (d + y)) * 2 ^ z = valueF32 (roundF32 neg m (d + z)) * 2 ^ y := by
  have hlpy := lastPlace_eq hy
  have hlpz := lastPlace_eq hz
  have hplaces : lastPlace m (d + y) + z = lastPlace m (d + z) + y := by omega
  have hunits : units (roundF32 neg m (d + y)) * 2 ^ z = units (roundF32 neg m (d + z)) * 2 ^ y := by
    rw [(roundF32_finite hm hfiny).1, (roundF32_finite hm hfinz).1, kept_eq_of_normal hy hz, ← signed_mul_two_pow,
      ← signed_mul_two_pow, mul_assoc, mul_assoc, ← pow_add, ← pow_add, hplaces]
  rw [valueF32_eq_ofUnits, valueF32_eq_ofUnits, ofUnits, ofUnits, div_mul_eq_mul_div, div_mul_eq_mul_div]
  exact congrArg (· / (2 ^ 149 * 2 ^ 149 : ℚ)) (by exact_mod_cast hunits)

/-- The 63 scale factors are three significands at falling exponents (20_memory.md R52). -/
theorem significand_scfRom : ∀ c : BitVec 6, c ≠ 63#6 →
    significand (scfRom c) = significand (scfRom (BitVec.ofNat 6 (c.toNat % 3))) := by decide

/-- Scale factors of one residue differ in a power of two alone, and the products stay finite and normal, so they
stand in the ratio of the factors. -/
theorem valueF32_fmul32_scfRom_mul {x : F32} {c0 c1 : BitVec 6} (hle : expOf x ≤ 149) (hge : 103 ≤ expOf x)
    (hc0 : c0 ≠ 63#6) (hc1 : c1 ≠ 63#6) (hmod : c0.toNat % 3 = c1.toNat % 3) :
    valueF32 (fmul32 x (scfRom c0)) * valueF32 (scfRom c1) =
      valueF32 (fmul32 x (scfRom c1)) * valueF32 (scfRom c0) := by
  have hx : FiniteF32 x := finiteF32_of_expOf_le hle (by norm_num)
  have hsign : signOf (scfRom c0) = signOf (scfRom c1) := (scfRom_positive c0).2.trans (scfRom_positive c1).2.symm
  have hsig : significand (scfRom c0) = significand (scfRom c1) := by
    rw [significand_scfRom c0 hc0, significand_scfRom c1 hc1, hmod]
  have hfrom0 := scfRom_from c0 hc0
  have hfrom1 := scfRom_from c1 hc1
  obtain ⟨hsigx, hscalex⟩ := normal_fields (by norm_num) hge
  obtain ⟨-, hscale0⟩ := normal_fields (by norm_num) hfrom0
  obtain ⟨hsig1, hscale1⟩ := normal_fields (by norm_num) hfrom1
  have hprod : 2 ^ 23 * 2 ^ 23 ≤ significand x * significand (scfRom c1) := Nat.mul_le_mul hsigx hsig1
  have hm : significand x * significand (scfRom c1) ≠ 0 := by omega
  have hlog : 46 ≤ (significand x * significand (scfRom c1)).log2 := (Nat.le_log2 hm).mpr hprod
  have hfin0 := finiteF32_fmul32_scfRom hle c0
  have hfin1 := finiteF32_fmul32_scfRom hle c1
  rw [fmul32_of_finite hx (finiteF32_scfRom c0), hsign, hsig] at hfin0 ⊢
  rw [fmul32_of_finite hx (finiteF32_scfRom c1)] at hfin1 ⊢
  have hvalues := valueF32_roundF32_mul hm (by omega) (by omega) hfin0 hfin1
  rw [valueF32_eq (scfRom c0), valueF32_eq (scfRom c1), hsign, hsig, signed_mul_two_pow, signed_mul_two_pow]
  push_cast
  linear_combination (signed (signOf (scfRom c1)) (significand (scfRom c1)) / 2 ^ 149 : ℚ) * hvalues

/-- Settles O32: both products round one significand at two exponents, or are zeros. -/
theorem intensityRatioExact : Obligations.IntensityRatioExact := by
  intro v a c0 c1 raw x ha _ hc0 hc1 hmod shared
  obtain ⟨hfac, hoff⟩ := withAlloc_roms x v ha
  have hle : expOf shared ≤ 149 := expOf_requant_le hfac hoff
  obtain hzero | hge : ZeroOrFrom 103 shared := requant_zeroOrFrom hfac hoff
  · have hfin : FiniteF32 shared := finiteF32_of_expOf_le hle (by norm_num)
    have hproduct (c : BitVec 6) : valueF32 (fmul32 shared (scfRom c)) = 0 := by
      rw [fmul32_of_isZero hfin (finiteF32_scfRom c) (.inl hzero), valueF32_eq_ofUnits, units_zeroF32]
      simp [ofUnits]
    rw [hproduct, hproduct, zero_mul, zero_mul]
  · exact valueF32_fmul32_scfRom_mul hle hge hc0 hc1 hmod

end Sys2Proof.Proofs
end

section
/-! PROOFS. The host commands (spec/43_frame_sequencer.md R160 to R162, R176) and the places of the sequencer (R163,
R167 to R169, R173): the guard, the SYNTHs, and the step that decides the frame. -/

namespace Sys2Proof.Proofs
open Sys2Proof Sys2Proof.Machine

/-! ## Commands and waits -/

theorem nextUop_of_not_busy {s : State} (h : s.busy = false) : s.nextUop = none := by
  rw [← isSome_nextUop] at h
  exact Option.not_isSome_iff_eq_none.mp (by simp [h])

/-- With no driven word and no frame in progress the step, its signals sampled, is the host's. -/
theorem step_acceptOrIdle {s : State} (hrst : s.sampleInputs.pins.rst = false) (ho : s.outstanding = none)
    (hm : s.Mission) (hb : s.busy = false) : step s = acceptOrIdle s.sampleInputs := by
  have he := s.sampleInputs_eq
  refine runSampled_acceptOrIdle hrst (by rw [he]; exact ho) hm (nextUop_of_not_busy ?_)
  rw [he]
  exact hb

/-- Settles O7: with no frame in progress the step is the host's, and the host offers a legal word. -/
theorem acceptedCommandRuns : Obligations.AcceptedCommandRuns := by
  intro s w i hrst ho hm hb hc hd
  rw [step_acceptOrIdle hrst ho hm hb, acceptOrIdle_some hc, acceptWord_legal hd]

/-- An outstanding transaction holds every step but a reset (60_exceptions.md R216). -/
theorem runSampled_outstanding {s : State} (hrst : s.pins.rst = false) (ho : s.outstanding ≠ none) :
    runSampled s = waitOutstanding s := by
  obtain ⟨x, hx⟩ := Option.ne_none_iff_exists'.mp ho
  simp [runSampled, hrst, hx]

/-- Sampling takes one entry off the host's list. -/
theorem inputs_sampleInputs (s : State) : s.sampleInputs.inputs = s.inputs.tail := by
  unfold State.sampleInputs
  cases h : s.inputs with
  | nil => exact h
  | cons x rest => rfl

/-- Settles O11: a wait is the host's step with nothing offered, or an outstanding transaction's. -/
theorem waitsWhenIdleOrOutstanding : Obligations.WaitsWhenIdleOrOutstanding := by
  intro s hrst
  have held (ho : s.outstanding ≠ none) : step s = waitOutstanding s.sampleInputs :=
    runSampled_outstanding hrst (by rw [s.sampleInputs_eq]; exact ho)
  refine ⟨fun ho hm hb hc => ?_, fun ho hl => ?_, fun ho hl => ?_⟩
  · rw [step_acceptOrIdle hrst ho hm hb, acceptOrIdle_none hc]
  · have hi : s.sampleInputs.inputs = [] := by
      rw [inputs_sampleInputs, ← List.length_eq_zero_iff, List.length_tail]
      omega
    rw [held ho, waitOutstanding, hi]
  · have hi : s.sampleInputs.inputs ≠ [] := by
      rw [inputs_sampleInputs, ← List.length_pos_iff, List.length_tail]
      omega
    obtain ⟨x, rest, hx⟩ := List.exists_cons_of_ne_nil hi
    rw [held ho, waitOutstanding, hx]

/-! ## CFG and DECODE -/

theorem encode_cfg_eq_or (crc : Bool) (sel : BitVec 2) : encode (.cfg crc sel) =
    0x8000#16 ||| (BitVec.ofBool crc).setWidth 16 <<< 2 ||| sel.setWidth 16 := by
  revert crc sel
  decide

/-- A CFG word with SEL = 3 or a nonzero reserved bit is no legal word (30_encoding.md R91). -/
theorem decodeCmd_cfg_illegal {w : Word} (hopc : opcOf w = 8#4) (h : selOf w = 3#2 ∨ reservedOf w ≠ 0#9) :
    decodeCmd w = none := by
  rw [← Option.not_isSome_iff_eq_none, isSome_decodeCmd]
  rintro (⟨-, hres, hsel⟩ | rfl)
  · exact h.elim hsel fun hr => hr hres
  · exact absurd hopc (by decide)

/-- Settles O38: the legal codes of SEL one by one; every other CFG word is refused by the decoder. -/
theorem cfgConfigures : Obligations.CfgConfigures := by
  intro crc s
  refine ⟨encode_cfg_eq_or crc, fun sel x h => ?_, fun w hopc h => ?_, rfl⟩
  · obtain ⟨rfl, rfl⟩ | ⟨rfl, rfl⟩ | ⟨rfl, rfl⟩ := h <;> rfl
  · exact (commandWordVerdict w).2 (decodeCmd_cfg_illegal hopc h) s

section Decode
variable {s : State}

theorem exec_decode_notCreated (hc : s.created = false) :
    exec .decode s = .next (s.cmdFault .notCreated 0x9000#16) := if_pos hc

theorem exec_decode_created (hc : s.created = true) :
    exec .decode s = if frameValid s.pins.hdr.mode s.pins.hdr.n s.pins.hdr.b then .next s.startFrame
      else .next (s.startFrame.cmdFault .configInvalid 0x9000#16) := if_neg (by simp [hc])

end Decode

/-- Settles O39: the three ends of DECODE. -/
theorem decodeStartsFrame : Obligations.DecodeStartsFrame := by
  intro s
  refine ⟨rfl, exec_decode_notCreated, fun hc => ⟨fun hv => ?_, fun hv => ?_⟩⟩
  · exact (exec_decode_created hc).trans (if_pos hv)
  · exact (exec_decode_created hc).trans (if_neg (by simp [hv]))

/-- Settles O40: the three conjuncts of the check. -/
theorem frameValidIff : Obligations.FrameValidIff := by
  intro mode n b
  simp [frameValid]

/-! ## The guard -/

/-- Settles O46: one case for each mode of the guard. -/
theorem guardEvalByMode : Obligations.GuardEvalByMode := by
  intro s
  refine ⟨fun hp => ?_, fun hp => ?_⟩
  · simp [State.guardEval, hp]
  · simp [State.guardEval, hp]

theorem atLastSubband_of_eq {s : State} (h : s.n.toNat = s.seqI.toNat + 1) : s.atLastSubband = true := by
  simp [State.atLastSubband, h]

/-- The last SCFSI evaluates the guard (43_frame_sequencer.md R167). -/
theorem advance_select_last {s : State} (hf : s.fsm = .scaleSelect) (hl : s.atLastSubband = true) :
    s.advance = s.passGuard := by
  simp [State.advance, hf, hl]

/-- An SCFSI that passes its checks writes nothing, whatever grain stands (41_subband_ops.md R115). -/
theorem partUop_scfsi {s : State} {i : SbIdx} {v : Variant} (hn : s.Names i v) (hf : s.inFlight = none)
    (d : Option Word) : s.partUop d (scfsiInstr v i) = s := by
  have hbody (c : UopCtx) : uopBody (scfsiInstr v i) c s = .done () c s := by
    have hcheck : uopBody (scfsiInstr v i) c s = checkEntry c i v s := by cases v <;> rfl
    rw [hcheck, checkEntry_ok hn.1 hn.2]
  unfold State.partUop
  rw [hbody]
  exact congrArg (fun f => { s with inFlight := f }) hf.symm

/-- Settles O47: the step is the last SCFSI, which writes nothing, and SEQ goes where the guard sends it. -/
theorem guardDecidesTheFrame : Obligations.GuardDecidesTheFrame := by
  intro s hi hrst hp ho hfl hf hn hnames
  have hd : s.drivenWord = none := by rw [drivenWord_of_begun_none hfl, hp, ite_self]
  have hu : s.nextUop = some (scfsiInstr s.seqVar s.seqI) := by simp [State.nextUop, hf]
  have hstep : step s = .next s.passGuard := by
    rw [step, State.sampleInputs_nil hi, runSampled_sequenced hrst ho hd hu, issueNext_eq (port_of_nextUop hu),
      partUop_scfsi hnames hfl, afterUop_of_ended ho hfl, advance_select_last hf (atLastSubband_of_eq hn)]
  refine ⟨fun hg => ?_, fun hg => ?_⟩ <;> simp [hstep, State.passGuard, hg]

/-! ## The uops that SEQ names -/

/-- No subband's uop is a SYNTH. -/
theorem nextUop_synthB_iff {s : State} (hf : s.fsm = .sampleLoop) :
    s.nextUop = some .synthB ↔ s.seqPh = .synB := by
  have hs : sampleInstr s.seqVar s.seqI ≠ .synthB := by cases s.seqVar <;> nofun
  have hp : putInstr s.seqVar s.seqI ≠ .synthB := by cases s.seqVar <;> nofun
  cases hph : s.seqPh <;> simp [State.nextUop, hf, hph, hs, hp]

theorem advance_synA {s : State} (hf : s.fsm = .sampleLoop) (hp : s.seqPh = .synA) :
    s.advance = if s.synthesizesB then { s with seqPh := .synB } else s.endPass := by
  simp [State.advance, State.advanceLoop, hf, hp]

theorem synthesizesB_iff (s : State) : s.synthesizesB = true ↔ s.sel = .both ∧ s.mode ≠ .mono := by
  simp [State.synthesizesB]

/-- Past a pass no SYNTH B is named: PUT, SAMPLE or nothing comes next (43_frame_sequencer.md R164). -/
theorem nextUop_endPass {s : State} (hf : s.fsm = .sampleLoop) : s.endPass.nextUop ≠ some .synthB := by
  unfold State.endPass
  split
  · simp [nextUop_synthB_iff, hf]
  · split
    · simp [nextUop_synthB_iff, hf]
    · simp [State.nextUop]

/-- Settles O48: the phases after the PUTs, SYNTH B's by whether it is synthesized. -/
theorem synthBFollowsSynthA : Obligations.SynthBFollowsSynthA := by
  intro s hf
  refine ⟨fun hp hn => ?_, fun hp => ?_⟩
  · simp [State.advance, State.advanceLoop, State.nextUop, hf, hp, atLastSubband_of_eq hn]
  · rw [advance_synA hf hp, ← synthesizesB_iff]
    cases hB : s.synthesizesB with
    | true => simp [nextUop_synthB_iff, hf]
    | false => simpa using nextUop_endPass hf

/-- Settles O49: the variant policy, mode by mode. -/
theorem variantPolicy : Obligations.VariantPolicy := by
  rintro s i hf rfl
  have hu {v : Variant} (hv : varOfSubband s.mode s.b s.seqI = v) : s.nextUop = some (createSbInstr v s.seqI) := by
    rw [← hv]
    simp [State.nextUop, hf, State.seqVar]
  refine ⟨fun hm => hu (v := .mono) ?_, fun hm => hu (v := .st) ?_, fun hm hi => hu (v := .st) ?_,
    fun hm hi => hu (v := .is) ?_⟩
  · rw [hm]; rfl
  · obtain hm | hm := hm <;> rw [hm] <;> rfl
  · rw [hm]; exact if_pos hi
  · rw [hm]; exact if_neg (Nat.not_lt.mpr hi)

/-! ## The length of the schedule -/

theorem length_subbands (n : Nat) : (subbands n).length = n := by simp [subbands]

theorem length_granuleSchedule (mode : ChMode) (b : BitVec 6) (n : Nat) (filterB : Bool) :
    (granuleSchedule mode b n filterB).length = 2 * n + 1 + filterB.toNat := by
  cases filterB <;> simp [granuleSchedule, length_subbands] <;> ring

/-- Settles O60: the passes of the schedule counted. -/
theorem scheduleLength : Obligations.ScheduleLength := by
  intro mode b n filterB guard
  cases guard with
  | true => simp [frameSchedule, length_subbands, length_granuleSchedule]; ring
  | false => simp [frameSchedule, length_subbands]; ring

end Sys2Proof.Proofs
end

section
/-! PROOFS. No operation of a frame reads the command that the host offers (spec/43_frame_sequencer.md R178): what a uop
does, whole or in part, does not depend on the host's signals. -/

namespace Sys2Proof.Proofs
open Sys2Proof Sys2Proof.Machine

/-! ## The host's signals changed -/

/-- s with the host's signals changed by g. -/
def withSignals (g : Pins → Pins) (s : State) : State := { s with pins := g s.pins }

/-- F neither reads nor writes the host's signals. -/
def Signalless {α : Type} (F : UopCtx → State → Flow α) : Prop :=
  ∀ (g : Pins → Pins) (c : UopCtx) (s : State), F c (withSignals g s) = (F c s).mapState (withSignals g)

section Combine
variable {α β : Type} {F G : UopCtx → State → Flow α}

theorem Signalless.bind {K : α → UopCtx → State → Flow β} (hF : Signalless F) (hK : ∀ a, Signalless (K a)) :
    Signalless fun c s => (F c s).bind K := by
  intro g c s
  simp only [hF g c s]
  cases F c s with
  | done a c t => exact hK a g c t
  | stop t => rfl
  | hang x t => rfl
  | pause t => rfl

/-- A part that issues nothing and answers a. -/
theorem Signalless.update (a : α) {f : State → State} (hf : ∀ g s, f (withSignals g s) = withSignals g (f s)) :
    Signalless fun c s => .done a c (f s) := by
  intro g c s
  simp only [hf]
  rfl

/-- A part that depends on what the registers hold. -/
theorem Signalless.reading {γ : Type} {K : γ → UopCtx → State → Flow α} {r : State → γ}
    (hr : ∀ g s, r (withSignals g s) = r s) (hK : ∀ x, Signalless (K x)) : Signalless fun c s => K (r s) c s := by
  intro g c s
  simp only [hr]
  exact hK (r s) g c s

theorem Signalless.ite {p : State → Prop} [∀ s, Decidable (p s)]
    (hp : ∀ g s, p (withSignals g s) ↔ p s) (hF : Signalless F) (hG : Signalless G) :
    Signalless fun c s => if p s then F c s else G c s := by
  intro g c s
  simp only [hp]
  split
  · exact hF g c s
  · exact hG g c s

end Combine

/-! ## The parts of the uops -/

theorem issueGetBits_signalless (n : Nat) : Signalless fun c s => issueGetBits c n s := by
  intro g c s
  rcases issueGetBits_cases c n s with ⟨ha, hh, h⟩ | ⟨ha, hh, h⟩ | ⟨ha, h⟩ <;> simp only [h]
  · exact issueGetBits_has (s := withSignals g s) ha hh
  · exact issueGetBits_exhausted (s := withSignals g s) ha hh
  · exact issueGetBits_never (s := withSignals g s) ha

theorem getBits_signalless (n : Nat) : Signalless fun c s => getBits c n s := by
  intro g c s
  simp only [getBits]
  cases c.turn with
  | latched e c => rfl
  | wait => rfl
  | issue c => exact issueGetBits_signalless n g c s

theorem transact_signalless (x : Txn) {reply : State → Reply} {issue : State → State}
    (hr : ∀ g s, reply (withSignals g s) = reply s)
    (hi : ∀ g s, issue (withSignals g s) = withSignals g (issue s)) :
    Signalless fun c s => transact c x (reply s) s (issue s) := by
  intro g c s
  simp only [transact, hr, hi]
  cases c.turn with
  | latched e c => rfl
  | wait => rfl
  | issue c => cases reply s <;> rfl

theorem onFilter_signalless (x : Txn) (f : Filter) :
    Signalless fun c s => transact c x (s.filterScript f).next s (s.advanceFilter f) :=
  transact_signalless x (fun _ _ => by cases f <;> rfl) (fun _ _ => by cases f <;> rfl)

theorem checkEntry_signalless (i : SbIdx) (v : Variant) : Signalless fun c s => checkEntry c i v s := by
  intro g c s
  rcases checkEntry_cases c i v s with ⟨hvalid, hvar, h⟩ | ⟨hn, h⟩ <;> simp only [h]
  · exact checkEntry_ok hvalid hvar
  · exact checkEntry_bad (s := withSignals g s) hn

theorem skip_signalless : Signalless fun c s => Flow.done () c s := .update () fun _ _ => rfl

theorem getCode4_signalless : Signalless getCode4 :=
  (getBits_signalless 4).bind fun v => .update (BitVec.ofNat 4 v) fun _ _ => rfl

theorem foldCode_signalless (a : BitVec 4) : Signalless fun c s => foldCode c a s :=
  .ite (fun _ _ => .rfl) (transact_signalless (.crcAdd a) (fun _ _ => rfl) fun _ _ => rfl) skip_signalless

section Parts
variable (i : SbIdx) (k : Ch)

theorem allocOne_signalless : Signalless fun c s => allocOne c i s :=
  getCode4_signalless.bind fun a => (foldCode_signalless a).bind fun _ => .update () fun _ _ => rfl

theorem allocTwo_signalless : Signalless fun c s => allocTwo c i s :=
  getCode4_signalless.bind fun a0 => getCode4_signalless.bind fun a1 => (foldCode_signalless a0).bind fun _ =>
    (foldCode_signalless a1).bind fun _ => .update () fun _ _ => rfl

theorem readScf_signalless : Signalless fun c s => readScf c i k s :=
  (getBits_signalless 6).bind fun _ => .update () fun _ _ => rfl

theorem scfChannel_signalless : Signalless fun c s => scfChannel c i k s :=
  .ite (fun _ _ => .rfl) (readScf_signalless i k) skip_signalless

theorem scfShared_signalless : Signalless fun c s => scfShared c i s :=
  .ite (fun _ _ => .rfl) ((readScf_signalless i .c0).bind fun _ => readScf_signalless i .c1) skip_signalless

theorem sampleChannel_signalless : Signalless fun c s => sampleChannel c i k s :=
  .ite (fun _ _ => .rfl)
    (.reading (K := fun w c s => (getBits c w s).bind fun v c s => .done () c (s.setRaw i k v))
      (r := fun s => (s.chan i k).w.toNat) (fun _ _ => rfl) fun w =>
      (getBits_signalless w).bind fun _ => .update () fun _ _ => rfl)
    skip_signalless

theorem sampleOne_signalless : Signalless fun c s => sampleOne c i s :=
  (sampleChannel_signalless i .c0).bind fun _ => .update () fun _ _ => rfl

theorem sampleTwo_signalless : Signalless fun c s => sampleTwo c i s :=
  (sampleChannel_signalless i .c0).bind fun _ =>
    Signalless.bind (F := fun c s => .done () c (s.granuleStep i)) (.update () fun _ _ => rfl)
      fun _ => sampleChannel_signalless i .c1

theorem injectAll_signalless (vs : List (Filter × F32)) : Signalless fun c s => injectAll c i vs s := by
  induction vs with
  | nil => exact skip_signalless
  | cons v vs ih => exact (onFilter_signalless (.inject v.1 i v.2) v.1).bind fun _ => ih

/-- The values of a PUT are read off the registers. -/
theorem emit_signalless {r : State → List (Filter × F32)} (hr : ∀ g s, r (withSignals g s) = r s) :
    Signalless fun c s => emit c i (r s) s :=
  .reading (K := fun vs c s => emit c i vs s) hr fun vs =>
    (injectAll_signalless i vs).bind fun _ => .update () fun _ _ => rfl

theorem Signalless.checked (v : Variant) {F : UopCtx → State → Flow Unit} (hF : Signalless F) :
    Signalless fun c s => (checkEntry c i v s).bind fun _ c t => F c t :=
  (checkEntry_signalless i v).bind fun _ => hF

end Parts

/-- No uop reads or writes the host's signals, run whole or in part. -/
theorem uopBody_signalless (u : Instr) : Signalless (uopBody u) := by
  have create (i : SbIdx) (v : Variant) : Signalless (createSb v i) := .update () fun _ _ => rfl
  cases u with
  | createSbMono i => exact create i .mono
  | createSbSt i => exact create i .st
  | createSbIs i => exact create i .is
  | allocMono i => exact .checked i .mono (allocOne_signalless i)
  | allocSt i => exact .checked i .st (allocTwo_signalless i)
  | allocIs i => exact .checked i .is (allocOne_signalless i)
  | scfsiMono i => exact checkEntry_signalless i .mono
  | scfsiSt i => exact checkEntry_signalless i .st
  | scfsiIs i => exact checkEntry_signalless i .is
  | scfMono i => exact .checked i .mono (scfChannel_signalless i .c0)
  | scfSt i =>
    exact .checked i .st ((scfChannel_signalless i .c0).bind fun _ => scfChannel_signalless i .c1)
  | scfIs i => exact .checked i .is (scfShared_signalless i)
  | sampleMono i => exact .checked i .mono (sampleOne_signalless i)
  | sampleSt i => exact .checked i .st (sampleTwo_signalless i)
  | sampleIs i => exact .checked i .is (sampleOne_signalless i)
  | putMono i => exact .checked i .mono (emit_signalless i (r := (monoValues · i)) fun _ _ => rfl)
  | putSt i => exact .checked i .st (emit_signalless i (r := (stValues · i)) fun _ _ => rfl)
  | putIs i => exact .checked i .is (emit_signalless i (r := (isValues · i)) fun _ _ => rfl)
  | synthA => exact onFilter_signalless (.synth .a) .a
  | synthB => exact onFilter_signalless (.synth .b) .b
  | cfg crc sel => exact skip_signalless
  | decode => exact skip_signalless

/-! ## Uops and steps -/

section Steps
variable (g : Pins → Pins) (s : State)

theorem partUop_withSignals (d : Option Word) (u : Instr) :
    (withSignals g s).partUop d u = withSignals g (s.partUop d u) := by
  have hbody := uopBody_signalless u g (s.uopCtx (encode u)) s
  unfold State.partUop
  rw [show (withSignals g s).uopCtx (encode u) = s.uopCtx (encode u) from rfl, hbody]
  cases uopBody u (s.uopCtx (encode u)) s <;> rfl

theorem issueWord_withSignals (d : Option Word) (w : Word) :
    issueWord d w (withSignals g s) = mapNext (withSignals g) (issueWord d w s) := by
  cases hd : decodeUop w with
  | none => rw [issueWord_illegal hd, issueWord_illegal hd]; rfl
  | some u => rw [issueWord_eq_partUop hd, issueWord_eq_partUop hd, partUop_withSignals]; rfl

theorem endPass_withSignals : (withSignals g s).endPass = withSignals g s.endPass := by
  simp only [State.endPass, apply_ite (withSignals g)]
  rfl

theorem advanceLoop_withSignals : (withSignals g s).advanceLoop = withSignals g s.advanceLoop := by
  have hph : (withSignals g s).seqPh = s.seqPh := rfl
  unfold State.advanceLoop
  rw [hph]
  cases s.seqPh <;> simp only [endPass_withSignals, apply_ite (withSignals g)] <;> rfl

/-- Of the host's signals SEQ's way depends on the guard alone, where it is evaluated. -/
theorem advance_withSignals
    (hg : s.fsm = .scaleSelect → s.atLastSubband = true → (withSignals g s).guardEval = s.guardEval) :
    (withSignals g s).advance = withSignals g s.advance := by
  have hfsm : (withSignals g s).fsm = s.fsm := rfl
  have hlast : (withSignals g s).atLastSubband = s.atLastSubband := rfl
  unfold State.advance
  rw [hfsm, hlast]
  cases hf : s.fsm with
  | scaleSelect =>
    cases hl : s.atLastSubband with
    | false => rfl
    | true =>
      show (withSignals g s).passGuard = withSignals g s.passGuard
      simp only [State.passGuard, hg hf hl, apply_ite (withSignals g)]
      rfl
  | sampleLoop => exact advanceLoop_withSignals g s
  | _ => simp only [apply_ite (withSignals g)] <;> rfl

theorem afterUop_withSignals
    (hg : s.fsm = .scaleSelect → s.atLastSubband = true → (withSignals g s).guardEval = s.guardEval) :
    (withSignals g s).afterUop = withSignals g s.afterUop := by
  simp only [State.afterUop, advance_withSignals g s hg, apply_ite (withSignals g)]
  rfl

theorem applyReset_withSignals : (withSignals g s).applyReset = withSignals g s.applyReset := by
  have ho : (withSignals g s).outstanding = s.outstanding := rfl
  unfold State.applyReset State.abandon
  rw [ho]
  cases s.outstanding <;> rfl

end Steps

/-- g changes other signals than RST and the uop bus. -/
structure SparesUops (g : Pins → Pins) : Prop where
  rst : ∀ p, (g p).rst = p.rst
  uop : ∀ p, (g p).uop = p.uop
  taken : ∀ p : Pins, g { p with uop := none } = { g p with uop := none }

section Busy
variable {g : Pins → Pins} {s : State} (hg : SparesUops g)
include hg

theorem drivenWord_withSignals : (withSignals g s).drivenWord = s.drivenWord := by
  unfold State.drivenWord
  rw [show (withSignals g s).pins.uop = s.pins.uop from hg.uop s.pins]
  rfl

theorem driveWord_withSignals (w : Word) :
    driveWord w (withSignals g s) = mapNext (withSignals g) (driveWord w s) := by
  have htaken : (withSignals g s).takeUop = withSignals g s.takeUop :=
    congrArg (fun p => { s with pins := p }) (hg.taken s.pins).symm
  unfold driveWord
  rw [← issueWord_withSignals, htaken, apply_ite (withSignals g)]
  rfl

/-- While a frame is in progress a step does the same under other signals, but for the guard that `hafter` speaks of
(43_frame_sequencer.md R167, R178). -/
theorem step_withSignals (hb : s.busy = true) (hi : s.inputs = [])
    (hafter : ∀ u, s.nextUop = some u →
      (withSignals g (s.partUop none u)).afterUop = withSignals g (s.partUop none u).afterUop) :
    step (withSignals g s) = mapNext (withSignals g) (step s) := by
  have hrst : (withSignals g s).pins.rst = s.pins.rst := hg.rst s.pins
  rw [step, step, State.sampleInputs_nil hi, State.sampleInputs_nil (s := withSignals g s) hi]
  by_cases hr : s.pins.rst = true
  · have reset (t : State) (ht : t.pins.rst = true) : runSampled t = .next t.applyReset := if_pos ht
    rw [reset s hr, reset _ (hrst.trans hr), applyReset_withSignals, mapNext_next]
  have hr : s.pins.rst = false := by simpa using hr
  by_cases ho : s.outstanding = none
  · cases hd : s.drivenWord with
    | some w =>
      rw [runSampled_driven hr ho hd, runSampled_driven (s := withSignals g s) (hrst.trans hr) ho
        ((drivenWord_withSignals hg).trans hd), driveWord_withSignals hg]
    | none =>
      obtain ⟨u, hu⟩ := Option.isSome_iff_exists.mp ((isSome_nextUop s).trans hb)
      have hport := port_of_nextUop hu
      rw [runSampled_sequenced hr ho hd hu, runSampled_sequenced (s := withSignals g s) (hrst.trans hr) ho
        ((drivenWord_withSignals hg).trans hd) hu, issueNext_eq hport, issueNext_eq hport, partUop_withSignals,
        hafter u hu, mapNext_next]
  · have stuck (t : State) (ht : t.inputs = []) : waitOutstanding t = .fault .stuck := by rw [waitOutstanding, ht]
    rw [runSampled_outstanding hr ho, runSampled_outstanding (s := withSignals g s) (hrst.trans hr) ho, stuck s hi,
      stuck (withSignals g s) hi, mapNext_fault]

end Busy

/-- Settles O10: CMD is a signal that neither the uops nor the guard read. -/
theorem busyIgnoresCommands : Obligations.BusyIgnoresCommands := fun _ c hb hi =>
  step_withSignals (g := fun p => { p with cmd := c }) ⟨fun _ => rfl, fun _ => rfl, fun _ => rfl⟩ hb hi
    fun _ _ => afterUop_withSignals _ _ fun _ _ => rfl

end Sys2Proof.Proofs
end

section
/-! PROOFS. A frame issues the uops of its schedule, in order (spec/43_frame_sequencer.md R164, R171, R172): what of the
schedule is still to come is read off SEQ, and a completed uop takes the first of it off. -/

namespace Sys2Proof.Proofs
open Sys2Proof Sys2Proof.Machine

/-! ## What is still to come -/

/-- The uops of one kind from subband i on. -/
def passFrom (s : State) (f : Variant → SbIdx → Instr) (i : Nat) : List Instr :=
  ((subbands s.n.toNat).drop i).map fun j => f (varOfSubband s.mode s.b j) j

/-- The kind of uop that SEQ goes through the subbands with, none at a SYNTH (43_frame_sequencer.md R164). -/
def passKind (s : State) : Option (Variant → SbIdx → Instr) :=
  match s.fsm with
  | .init => some createSbInstr
  | .allocate => some allocInstr
  | .scaleSelect => some scfsiInstr
  | .scaleFactors => some scfInstr
  | .sampleLoop =>
    match s.seqPh with
    | .read => some sampleInstr
    | .put => some putInstr
    | .synA | .synB => none
  | .idle | .done | .error => none

/-- SYNTH B, where the frame has one (43_frame_sequencer.md R173). -/
def synthBs (s : State) : List Instr := if s.synthesizesB then [.synthB] else []

/-- The uops of k whole granules. -/
def granules (s : State) (k : Nat) : List Instr :=
  (List.replicate k (granuleSchedule s.mode s.b s.n.toNat s.synthesizesB)).flatten

/-- The uops after SCALESELECT, where the guard is g (43_frame_sequencer.md R167, R169). -/
def guardedUops (g : Bool) (s : State) : List Instr := if g then passFrom s scfInstr 0 ++ granules s 12 else []

/-- The uops after the pass, or the SYNTH, that SEQ stands in. -/
def afterPass (g : Bool) (s : State) : List Instr :=
  match s.fsm with
  | .init => passFrom s allocInstr 0 ++ (passFrom s scfsiInstr 0 ++ guardedUops g s)
  | .allocate => passFrom s scfsiInstr 0 ++ guardedUops g s
  | .scaleSelect => guardedUops g s
  | .scaleFactors => granules s 12
  | .sampleLoop =>
    let later := granules s (11 - s.seqG.toNat)
    match s.seqPh with
    | .read => passFrom s putInstr 0 ++ (.synthA :: (synthBs s ++ later))
    | .put => .synthA :: (synthBs s ++ later)
    | .synA => synthBs s ++ later
    | .synB => later
  | .idle | .done | .error => []

/-- The uops of the frame from the one that SEQ names on, where the guard is g at its evaluation. -/
def scheduleRest (g : Bool) (s : State) : List Instr :=
  (match passKind s with
    | some f => passFrom s f s.seqI.toNat
    | none => s.nextUop.toList) ++ afterPass g s

theorem passFrom_cons (s : State) (f : Variant → SbIdx → Instr) (h : s.seqI.toNat < s.n.toNat) :
    passFrom s f s.seqI.toNat = f s.seqVar s.seqI :: passFrom s f (s.seqI.toNat + 1) := by
  have hlen : s.seqI.toNat < (subbands s.n.toNat).length := by rwa [length_subbands]
  have hget : (subbands s.n.toNat)[s.seqI.toNat] = s.seqI := by simp [subbands]
  rw [passFrom, List.drop_eq_getElem_cons hlen, hget]
  rfl

theorem passFrom_n (s : State) (f : Variant → SbIdx → Instr) : passFrom s f s.n.toNat = [] := by
  rw [passFrom, List.drop_eq_nil_of_le (length_subbands _).le, List.map_nil]

theorem granules_succ (s : State) (k : Nat) :
    granules s (k + 1) =
      passFrom s sampleInstr 0 ++ (passFrom s putInstr 0 ++ (.synthA :: (synthBs s ++ granules s k))) := by
  simp [granules, List.replicate_succ, granuleSchedule, passFrom, synthBs]

theorem nextUop_of_passKind {s : State} {f : Variant → SbIdx → Instr} (h : passKind s = some f) :
    s.nextUop = some (f s.seqVar s.seqI) := by
  unfold passKind at h
  unfold State.nextUop
  cases hf : s.fsm with
  | sampleLoop => cases hp : s.seqPh <;> simp_all
  | _ => simp_all

/-- A frame that DECODE has just started has its whole schedule to come. -/
theorem scheduleRest_startFrame (g : Bool) (s : State) :
    scheduleRest g s.startFrame = frameSchedule s.pins.hdr.mode s.pins.hdr.b s.pins.hdr.n.toNat
      (s.sel == .both && s.pins.hdr.mode != .mono) g := by
  simp only [frameSchedule, List.append_assoc]
  rfl

/-- What is to come depends on what places the uop alone. -/
theorem SamePlace.scheduleRest {s m : State} (hp : SamePlace s m) (g : Bool) :
    scheduleRest g m = Proofs.scheduleRest g s := by
  simp only [Proofs.scheduleRest, passKind, afterPass, guardedUops, granules, synthBs, passFrom, State.nextUop,
    State.seqVar, State.synthesizesB, hp.sel, hp.mode, hp.n, hp.b, hp.fsm, hp.seqI, hp.seqPh, hp.seqG]
  rfl

theorem SamePlace.nextUop {s m : State} (hp : SamePlace s m) : m.nextUop = s.nextUop := by
  simp only [State.nextUop, State.seqVar, hp.mode, hp.b, hp.fsm, hp.seqI, hp.seqPh]

/-! ## The uop that SEQ names comes first -/

theorem scheduleRest_pass {s : State} {f : Variant → SbIdx → Instr} (hk : passKind s = some f) (g : Bool) :
    scheduleRest g s = passFrom s f s.seqI.toNat ++ afterPass g s := by
  rw [scheduleRest, hk]

/-- At the last subband of a pass only the named uop is left of it. -/
theorem scheduleRest_last {s : State} {f : Variant → SbIdx → Instr} (hk : passKind s = some f)
    (hi : s.seqI.toNat + 1 = s.n.toNat) (g : Bool) :
    scheduleRest g s = f s.seqVar s.seqI :: afterPass g s := by
  have hlast : passFrom s f s.seqI.toNat = [f s.seqVar s.seqI] := by
    rw [passFrom_cons s f (by omega), hi, passFrom_n]
  rw [scheduleRest_pass hk, hlast]
  rfl

theorem scheduleRest_synth {s : State} {u : Instr} (hk : passKind s = none) (hu : s.nextUop = some u) (g : Bool) :
    scheduleRest g s = u :: afterPass g s := by
  rw [scheduleRest, hk, hu]
  rfl

/-- Within a pass SEQ goes to the next subband (43_frame_sequencer.md R164). -/
theorem scheduleRest_nextSubband {s : State} {f : Variant → SbIdx → Instr} (h : SeqInv s)
    (hk : passKind s = some f) (hi : s.seqI.toNat + 1 < s.n.toNat) (g : Bool) :
    scheduleRest g s = f s.seqVar s.seqI :: scheduleRest g s.nextSubband := by
  have hk' : passKind s.nextSubband = some f := hk
  have hi' : s.nextSubband.seqI.toNat = s.seqI.toNat + 1 := toNat_succ_seqI h hi
  rw [scheduleRest_pass hk, scheduleRest_pass hk', hi', passFrom_cons s f (by omega)]
  rfl

theorem passGuard_guard (s : State) : s.passGuard.guard = s.guardEval := by
  unfold State.passGuard
  split <;> simp_all

/-- Where the last SYNTH of a granule has counted it, the later granules remain. -/
theorem afterPass_counted {s : State} (hf : s.fsm = .sampleLoop) (hp : s.seqPh = .synA ∨ s.seqPh = .synB)
    (hg : s.advance.seqG ≠ s.seqG) (g : Bool) : afterPass g s = granules s (11 - s.seqG.toNat) := by
  obtain hp | hp := hp
  · have hB : ¬ s.synthesizesB = true := fun hB => hg (by rw [advance_synA hf hp, if_pos hB])
    simp [afterPass, hf, hp, synthBs, hB]
  · simp [afterPass, hf, hp]

/-- The last uop of a pass, or a SYNTH, is followed by what SEQ goes to. -/
theorem afterPass_eq {s t : State} (h : SeqInv s) (ha : Advances s t) (ht : s.advance = t)
    (hlast : s.seqI.toNat + 1 = s.n.toNat) : afterPass s.guardEval s = scheduleRest s.guardEval t := by
  have hl : s.atLastSubband = true := atLastSubband_of_eq hlast.symm
  have guarded (hf : s.fsm = .scaleSelect) : s.guardEval = t.guard := by
    rw [← ht, advance_select_last hf hl, passGuard_guard]
  have counts (hg : t.seqG = s.seqG + 1#4) : s.advance.seqG ≠ s.seqG := by
    rw [ht, hg]
    exact fun he => absurd (congrArg BitVec.toNat he) (by rw [toNat_succ_seqG h]; omega)
  cases ha with
  | next hi _ => omega
  | toAllocate hf _ => rw [afterPass, hf]; rfl
  | toSelect hf _ => rw [afterPass, hf]; rfl
  | pass hf _ => rw [guarded hf, afterPass, hf]; rfl
  | mute hf _ => rw [guarded hf, afterPass, hf]; rfl
  | toLoop hf _ => rw [afterPass, hf]; exact granules_succ s 11
  | toPut hf hp _ =>
    simp only [scheduleRest, passKind, afterPass, hf, hp]
    rfl
  | toSynA hf hp _ =>
    simp only [scheduleRest, passKind, afterPass, State.nextUop, hf, hp]
    rfl
  | toSynB hf hp hB =>
    simp only [scheduleRest, passKind, afterPass, State.nextUop, synthBs, hf, hp, hB]
    rfl
  | again hf hp hr =>
    have hG : s.seqG.toNat ≠ 11 := by
      have := h.readFlag hf (by rcases hp with hp | hp <;> simp [hp])
      simpa [hr] using this
    have hleft : 11 - s.seqG.toNat = 11 - (s.seqG + 1#4).toNat + 1 := by
      have := h.granule
      rw [toNat_succ_seqG h]
      omega
    rw [afterPass_counted hf hp (counts rfl), hleft, granules_succ]
    simp only [scheduleRest, passKind, afterPass, hf]
    rfl
  | finish hf hp hr =>
    have hG : s.seqG.toNat = 11 := by
      have := h.readFlag hf (by rcases hp with hp | hp <;> simp [hp])
      simpa [hr] using this
    rw [afterPass_counted hf hp (counts rfl), hG]
    rfl

theorem synth_of_passKind_none {s : State} {u : Instr} (hk : passKind s = none) (hu : s.nextUop = some u) :
    s.seqPh = .synA ∨ s.seqPh = .synB := by
  unfold passKind at hk
  unfold State.nextUop at hu
  cases hf : s.fsm with
  | sampleLoop => cases hp : s.seqPh <;> simp_all
  | _ => simp_all

/-- Before the last subband SEQ goes to the next one. -/
theorem Advances.eq_nextSubband {s t : State} (ha : Advances s t) (h : SeqInv s)
    (hi : s.seqI.toNat + 1 ≠ s.n.toNat) : t = s.nextSubband := by
  cases ha with
  | next => rfl
  | toSynB _ hp => exact absurd (h.writeFlag (.inl hp)).2 hi
  | again _ hp => exact absurd (h.writeFlag hp).2 hi
  | finish _ hp => exact absurd (h.writeFlag hp).2 hi
  | _ => contradiction

/-- The uop that SEQ names is the first of those to come, and its completion leaves the others (43_frame_sequencer.md
R164). -/
theorem scheduleRest_advance {s : State} {u : Instr} (h : SeqInv s) (hu : s.nextUop = some u) :
    scheduleRest s.guardEval s = u :: scheduleRest s.guardEval s.advance := by
  have ha := advances h (busy_of_nextUop hu)
  cases hk : passKind s with
  | none =>
    have hlast := (h.writeFlag (synth_of_passKind_none hk hu)).2
    rw [scheduleRest_synth hk hu, afterPass_eq h ha rfl hlast]
  | some f =>
    obtain rfl : f s.seqVar s.seqI = u := Option.some.inj ((nextUop_of_passKind hk).symm.trans hu)
    by_cases hlast : s.seqI.toNat + 1 = s.n.toNat
    · rw [scheduleRest_last hk hlast, afterPass_eq h ha rfl hlast]
    · have hi : s.seqI.toNat + 1 < s.n.toNat := by
        have := h.index
        omega
      rw [scheduleRest_nextSubband h hk hi, ha.eq_nextSubband h hlast]

/-! ## A frame with a silent host -/

/-- The host is silent, no uop has begun, and the guard would be g. -/
structure Undisturbed (g : Bool) (s : State) : Prop where
  silent : s.HostSilent
  begun : s.inFlight = none
  guard : s.guardEval = g

/-- A whole uop of the sequencer leaves the context alone. -/
theorem sameContext_partUop {s : State} {u : Instr} (hu : u.port = .uopBus) (hf : s.inFlight = none)
    (hb : s.budget = none) (d : Option Word) : SameContext s (s.partUop d u) := by
  have hwhole := (State.partUop_whole u s d hu hf hb).symm.trans (exec_uop u s hu)
  rw [Host.Outcome.next.inj hwhole]
  exact (uopBody_keeps u _ s).settle

theorem Undisturbed.of_sameContext {g : Bool} {s t : State} (h : Undisturbed g s) (hc : SameContext s t) :
    Undisturbed g t where
  silent := by
    obtain ⟨hi, hrst, hcmd, huop, hb⟩ := h.silent
    exact ⟨hc.inputs.trans hi, by rw [hc.pins, hrst], by rw [hc.pins, hcmd], by rw [hc.pins, huop],
      hc.budget.trans hb⟩
  begun := hc.inFlight.trans h.begun
  guard := by
    rw [← h.guard]
    simp only [State.guardEval, hc.params, hc.crcPresent, hc.pins]

theorem undisturbed_advance {g : Bool} {s : State} : Undisturbed g s.advance ↔ Undisturbed g s := by
  rw [advance_eq]
  exact ⟨fun h => ⟨h.silent, h.begun, h.guard⟩, fun h => ⟨h.silent, h.begun, h.guard⟩⟩

theorem Undisturbed.afterUop {g : Bool} {s : State} (h : Undisturbed g s) : Undisturbed g s.afterUop := by
  rcases afterUop_cases s with he | he <;> rw [he]
  · exact h
  · exact undisturbed_advance.mpr h

/-- The frame stands where exactly `uops` are to come. -/
structure OnSchedule (g : Bool) (uops : List Instr) (s : State) : Prop where
  regs : s.busy = true → s.FrameRegs
  unfinished : s.busy = true ∨ s.fsm = .done
  rest : scheduleRest g s = uops

/-- The frame has ended early, or `uops` are to come. -/
def Follows (g : Bool) (uops : List Instr) (s : State) : Prop :=
  s.fsm = .error ∨ s.outstanding ≠ none ∨ OnSchedule g uops s

/-- The last uop ends in DONE. -/
theorem Advances.busy_or_done {s t : State} (ha : Advances s t) (hb : s.busy = true) :
    t.busy = true ∨ t.fsm = .done := by
  have loop (hf : s.fsm = .sampleLoop) (ht : t.fsm = s.fsm) : t.busy = true := by
    rw [State.busy, ht, hf]; rfl
  cases ha with
  | next => exact .inl hb
  | mute => exact .inr rfl
  | finish => exact .inr rfl
  | toPut hf => exact .inl (loop hf rfl)
  | toSynA hf => exact .inl (loop hf rfl)
  | toSynB hf => exact .inl (loop hf rfl)
  | again hf => exact .inl (loop hf rfl)
  | _ => exact .inl rfl

/-- The named uop, run whole, takes itself off the schedule unless it ends the frame early. -/
theorem OnSchedule.afterUop {g : Bool} {uops : List Instr} {s : State} {u : Instr} (hs : OnSchedule g uops s)
    (hg : Undisturbed g s) (ho : s.outstanding = none) (hu : s.nextUop = some u) :
    Undisturbed g (s.partUop none u).afterUop ∧ Follows g uops.tail (s.partUop none u).afterUop := by
  obtain ⟨-, -, -, -, hbudget⟩ := hg.silent
  have hb := busy_of_nextUop hu
  have hreg := hs.regs hb
  have hu' : Undisturbed g (s.partUop none u).afterUop :=
    (hg.of_sameContext (sameContext_partUop (port_of_nextUop hu) hg.begun hbudget none)).afterUop
  refine ⟨hu', ?_⟩
  rcases sequenced_cases ho hu with ⟨e, k, r, w, m, hr, hw, hp, h⟩ | h | ⟨x, p, h⟩ | ⟨f, p, h⟩
  · rw [h] at hu' ⊢
    have hm := seqInv_completed hreg hr hw hp
    have hrest := scheduleRest_advance hm (hp.nextUop.trans hu)
    rw [(undisturbed_advance.mp hu').guard, hp.scheduleRest, hs.rest] at hrest
    refine .inr (.inr ⟨frameRegs_completed hreg hr hw hp hb, ?_, by rw [hrest]; rfl⟩)
    exact (advances hm (by rw [State.busy, hp.fsm]; exact hb)).busy_or_done (by rw [State.busy, hp.fsm]; exact hb)
  · exact .inl h
  · exact .inr (.inl (by rw [h]; nofun))
  · have := hu'.begun
    rw [h] at this
    cases this

/-- A frame that is done has nothing to come. -/
theorem OnSchedule.nil_of_done {g : Bool} {uops : List Instr} {s : State} (hs : OnSchedule g uops s)
    (hb : s.busy = false) : s.fsm = .done ∧ uops = [] := by
  have hd := hs.unfinished.resolve_left (by simp [hb])
  exact ⟨hd, by rw [← hs.rest]; simp [scheduleRest, passKind, afterPass, State.nextUop, hd]⟩

/-- One step of an undisturbed frame takes one uop off the schedule. -/
theorem follows_step {g : Bool} {uops : List Instr} {s t : State} (hg : Undisturbed g s) (hs : Follows g uops s)
    (h : step s = .next t) : Undisturbed g t ∧ Follows g uops.tail t := by
  obtain ⟨hi, hrst, hcmd, huop, -⟩ := hg.silent
  rw [step, State.sampleInputs_nil hi] at h
  by_cases ho : s.outstanding = none
  · have hd : s.drivenWord = none := by rw [drivenWord_of_begun_none hg.begun, huop, ite_self]
    cases hu : s.nextUop with
    | some u =>
      rw [runSampled_sequenced hrst ho hd hu, issueNext_eq (port_of_nextUop hu)] at h
      cases h
      refine OnSchedule.afterUop ?_ hg ho hu
      refine (hs.resolve_left fun he => ?_).resolve_left (not_not.mpr ho)
      rw [nextUop_of_error he] at hu
      cases hu
    | none =>
      rw [runSampled_acceptOrIdle hrst ho hd hu, acceptOrIdle_none hcmd] at h
      cases h
      refine ⟨hg, hs.imp_right (Or.imp_right fun hs => ?_)⟩
      obtain ⟨-, rfl⟩ := hs.nil_of_done (not_busy_of_nextUop hu)
      exact hs
  · rw [runSampled_outstanding hrst ho, waitOutstanding, hi] at h
    cases h

/-- A run goes on from what its first step answers. -/
theorem run_succ {M : Host.Core} {k : Nat} {s t : M.State} (h : M.run (k + 1) s = .next t) :
    ∃ m, M.step s = .next m ∧ M.run k m = .next t := by
  rw [Host.Core.run] at h
  split at h
  · exact ⟨_, ‹_›, h⟩
  · cases h
  · cases h

theorem follows_run {g : Bool} {k : Nat} {uops : List Instr} {s t : State} (hg : Undisturbed g s)
    (hs : Follows g uops s) (h : Sys2Proof.core.run k s = .next t) : Undisturbed g t ∧ Follows g (uops.drop k) t := by
  induction k generalizing s uops with
  | zero => cases h; exact ⟨hg, hs⟩
  | succ k ih =>
    obtain ⟨m, hm, h⟩ := run_succ h
    obtain ⟨hg, hs⟩ := follows_step hg hs hm
    rw [← List.drop_tail]
    exact ih hg hs h

/-- SEQ names the first uop to come, and none in DONE. -/
theorem OnSchedule.nextUop {g : Bool} {uops : List Instr} {s : State} (hs : OnSchedule g uops s)
    (hg : Undisturbed g s) : s.nextUop = uops.head? := by
  cases hu : s.nextUop with
  | some u =>
    have hseq := ((frameRegs_iff s).mp (hs.regs (busy_of_nextUop hu))).1
    have hfirst := scheduleRest_advance hseq hu
    rw [hg.guard, hs.rest] at hfirst
    rw [hfirst, List.head?_cons]
  | none =>
    obtain ⟨-, rfl⟩ := hs.nil_of_done (not_busy_of_nextUop hu)
    rfl

/-- Settles O58: DECODE leaves the whole schedule to come, and each step takes its first uop off. -/
theorem frameFollowsTheSchedule : Obligations.FrameFollowsTheSchedule := by
  intro s t k hsilent _ hf hv uops _ hrun
  have hstart : OnSchedule s.guardEval uops s.startFrame :=
    ⟨fun _ => frameRegs_startFrame hv, .inl rfl, scheduleRest_startFrame s.guardEval s⟩
  have hquiet : Undisturbed s.guardEval s.startFrame := ⟨hsilent, hf, rfl⟩
  obtain ⟨ht, he | ho | hs⟩ := follows_run hquiet (.inr (.inr hstart)) hrun
  · exact .inl he
  · exact .inr (.inl ho)
  have hnext : t.nextUop = uops[k]? := (hs.nextUop ht).trans List.head?_drop
  refine .inr (.inr ⟨hnext, fun hk => ?_⟩)
  rw [hk, List.getElem?_length] at hnext
  exact (hs.nil_of_done (not_busy_of_nextUop hnext)).1

end Sys2Proof.Proofs
end

section
/-! PROOFS. The faults of the operations (spec/60_exceptions.md R200 to R205): how far a uop had come when it faulted,
and with which cause, one lemma for each part of a uop. -/

namespace Sys2Proof.Proofs
open Sys2Proof Sys2Proof.Machine

/-! ## How far a uop has come -/

/-- From s to t the trace has grown by completed transactions and BITCNT by the bits they read; the cursor, where it
is known, has moved by as many (10_state.md R35; 70_reset_and_hazards.md R252). -/
def Ledger (known : Prop) (s t : State) : Prop :=
  ∃ new, t.trace = s.trace ++ new ∧ t.bitcnt = s.bitcnt + BitVec.ofNat 32 (new.map Event.bitsRead).sum ∧
    (known → t.br.cursor = s.br.cursor + (new.map Event.bitsRead).sum)

theorem Ledger.refl (known : Prop) (s : State) : Ledger known s s := ⟨[], by simp, by simp, by simp⟩

theorem Ledger.append {s m t : State} {e : Event} {known : Prop} (h : Ledger True s m)
    (ht : t.trace = m.trace ++ [e]) (hb : t.bitcnt = m.bitcnt + BitVec.ofNat 32 e.bitsRead)
    (hc : known → t.br.cursor = m.br.cursor + e.bitsRead) : Ledger known s t := by
  obtain ⟨new, hm, hmb, hmc⟩ := h
  refine ⟨new ++ [e], by rw [ht, hm, List.append_assoc], ?_, fun hk => ?_⟩
  · rw [hb, hmb, List.map_append, List.sum_append, BitVec.ofNat_add, BitVec.add_assoc]; simp
  · rw [hc hk, hmc trivial, List.map_append, List.sum_append, Nat.add_assoc]; simp

/-- The values RREADY may have while u is under way from s: SAMPLE.ST writes it between its two reads
(41_subband_ops.md R121). -/
def MayShow (u : Instr) (s : State) (b : Bool) : Prop :=
  b = s.rready ∨ ∃ j, u = .sampleSt j ∧ b = decide ((s.entry j).gcnt = 11#4)

/-- The uop u, begun at s, has come to m: transactions have completed and entries may be written, and of the flags
only RREADY. -/
structure Underway (u : Instr) (known : Prop) (s m : State) : Prop where
  context : SameContext s m
  fsm : m.fsm = s.fsm
  outstanding : m.outstanding = s.outstanding
  wready : m.wready = s.wready
  rready : MayShow u s m.rready
  ledger : Ledger known s m

theorem Underway.refl (u : Instr) (known : Prop) (s : State) : Underway u known s s :=
  ⟨.refl s, rfl, rfl, rfl, .inl rfl, .refl known s⟩

section Underway
variable {u : Instr} {s m : State} (h : Underway u True s m)
include h

/-- One more transaction has completed. -/
theorem Underway.append {t : State} {e : Event} {known : Prop} (hc : SameContext m t) (hk : Counted m e.bitsRead t)
    (ht : t.trace = m.trace ++ [e]) (hcur : known → t.br.cursor = m.br.cursor + e.bitsRead) :
    Underway u known s t where
  context := h.context.trans hc
  fsm := hk.fsm.trans h.fsm
  outstanding := hk.outstanding.trans h.outstanding
  wready := hk.wready.trans h.wready
  rready := hk.rready ▸ h.rready
  ledger := h.ledger.append ht hk.bitcnt hcur

theorem Underway.tookBits (n : Nat) : Underway u True s (m.tookBits n) :=
  h.append (.tookBits m n) (by constructor <;> simp [Event.bitsRead]) (m.tookBits_trace n) fun _ => rfl

/-- After EXHAUSTED nothing is counted and the cursor is unknown (20_memory.md R56). -/
theorem Underway.foundExhausted (n : Nat) {known : Prop} (hk : ¬ known) : Underway u known s (m.foundExhausted n) :=
  h.append (.foundExhausted m n) (by constructor <;> simp [Event.bitsRead]) (m.foundExhausted_trace n)
    fun hk' => absurd hk' hk

theorem Underway.setChan (i : SbIdx) (k : Ch) (x : Chan) : Underway u True s (m.setChan i k x) :=
  ⟨h.context.trans (.setChan m i k x), h.fsm, h.outstanding, h.wready, h.rready, h.ledger⟩

/-- GranuleStep is one of SAMPLE.ST's own parts (41_subband_ops.md R121, R122). -/
theorem Underway.granuleStep {i : SbIdx} (hu : u = .sampleSt i) (hg : (m.entry i).gcnt = (s.entry i).gcnt) :
    Underway u True s (m.granuleStep i) where
  context := h.context.trans (.granuleStep m i)
  fsm := h.fsm
  outstanding := h.outstanding
  wready := h.wready
  rready := by
    have wraps : ∀ g : BitVec 4, readReadyAt g = decide (g = 11#4) := by decide
    exact .inr ⟨i, hu, by rw [← hg, ← wraps]; rfl⟩
  ledger := h.ledger

end Underway

/-- R202's table lists the cause x for u. -/
def Raises (u : Instr) (s : State) (x : Cause) : Prop := x ∈ possibleCauses s.crcPresent u

/-- t is the fault of u, begun at s: u had come to some m, and t is fault entry there with a cause u can raise. -/
def FaultedFrom (u : Instr) (s t : State) : Prop :=
  ∃ m x, Raises u s x ∧ Underway u (x ≠ .bitstreamExhausted) s m ∧ t = m.uopFault (UopCtx.fresh (encode u)) x

/-- A part of u, run whole: where it goes on P holds, and where it ends early the fault is one of u. -/
def Reports {α : Type} (u : Instr) (s : State) (P : State → Prop) : Flow α → Prop
  | .done _ c t => c = UopCtx.fresh (encode u) ∧ P t
  | .stop t => FaultedFrom u s t
  | .hang _ _ => True
  | .pause _ => True

/-- The next part may use how the one before it went on. -/
theorem Reports.bind {α β : Type} {u : Instr} {s : State} {P P' : State → Prop} {x : Flow α}
    {f : α → UopCtx → State → Flow β} (hx : Reports u s P x)
    (hf : ∀ a t, x = .done a (UopCtx.fresh (encode u)) t → P t →
      Reports u s P' (f a (UopCtx.fresh (encode u)) t)) : Reports u s P' (x.bind f) := by
  cases x with
  | done a c t =>
    obtain ⟨rfl, ht⟩ := hx
    exact hf a t rfl ht
  | _ => exact hx

theorem Reports.mono {α : Type} {u : Instr} {s : State} {P P' : State → Prop} {x : Flow α} (hx : Reports u s P x)
    (h : ∀ t, P t → P' t) : Reports u s P' x := by
  cases x with
  | done a c t => exact ⟨hx.1, h t hx.2⟩
  | _ => exact hx

/-! ## The parts of the uops -/

/-- The execute checks leave the state (30_encoding.md R90). -/
theorem checkEntry_reports {u : Instr} (i : SbIdx) (v : Variant) (s : State)
    (hill : Raises u s .illegalUop := by simp [Raises, possibleCauses]) :
    Reports u s (· = s) (checkEntry (UopCtx.fresh (encode u)) i v s) := by
  rcases checkEntry_cases (UopCtx.fresh (encode u)) i v s with ⟨-, -, h⟩ | ⟨-, h⟩ <;> rw [h]
  · exact ⟨rfl, rfl⟩
  · exact ⟨s, _, hill, .refl u _ s, rfl⟩

theorem checked_reports {u : Instr} {i : SbIdx} {v : Variant} {s : State} {P : State → Prop}
    {f : UopCtx → State → Flow Unit} (hf : Reports u s P (f (UopCtx.fresh (encode u)) s))
    (hill : Raises u s .illegalUop := by simp [Raises, possibleCauses]) :
    Reports u s P ((checkEntry (UopCtx.fresh (encode u)) i v s).bind fun _ c t => f c t) :=
  (checkEntry_reports i v s hill).bind fun _ _ _ ht => ht ▸ hf

section Parts
variable {u : Instr} {s m : State} (hm : Underway u True s m)
include hm

theorem transact_reports {x : Txn} (r : Reply) {issued : State} (hn : ∀ n, x ≠ .getBits n)
    (hi : SameContext m issued) (hk : Counted m 0 issued) (ht : issued.trace = m.trace) (hb : issued.br = m.br)
    (herr : Raises u s .collaboratorError) :
    Reports u s (Underway u True s) (transact (UopCtx.fresh (encode u)) x r m issued) := by
  have completed (y : Completion) {known : Prop} : Underway u known s (issued.record x y) := by
    have hzero : Event.bitsRead { txn := x, result := y } = 0 := by
      cases x with
      | getBits n => exact absurd rfl (hn n)
      | _ => rfl
    refine hm.append (e := { txn := x, result := y }) (hi.trans (.record issued x y)) ?_ ?_ fun _ => ?_
    · rw [hzero]
      exact ⟨hk.sb, hk.bitcnt, hk.rready, hk.wready, hk.fsm, hk.outstanding, hk.params⟩
    · rw [State.record_trace, ht]
    · rw [hzero, State.record_br, hb]; rfl
  rw [transact_fresh]
  rcases complete_cases (UopCtx.fresh (encode u)) x r issued with ⟨-, h⟩ | ⟨-, h⟩ | ⟨-, h⟩ <;> rw [h]
  · exact ⟨rfl, completed .ok⟩
  · exact ⟨_, _, herr, completed .err, rfl⟩
  · trivial

theorem filter_reports {x : Txn} (hn : ∀ n, x ≠ .getBits n) (f : Filter)
    (herr : Raises u s .collaboratorError := by simp [Raises, possibleCauses]) :
    Reports u s (Underway u True s)
      (transact (UopCtx.fresh (encode u)) x (m.filterScript f).next m (m.advanceFilter f)) :=
  transact_reports hm _ hn (.advanceFilter m f) (counted_advanceFilter m f) (m.advanceFilter_trace f)
    (m.advanceFilter_br f) herr

/-- CrcAdd is issued only with CRC_PRESENT (41_subband_ops.md R112). -/
theorem foldCode_reports (a : BitVec 4) (herr : s.crcPresent = true → Raises u s .collaboratorError) :
    Reports u s (Underway u True s) (foldCode (UopCtx.fresh (encode u)) a m) := by
  unfold foldCode
  split
  · exact transact_reports hm (issued := { m with crc := m.crc.advance }) _ nofun (by constructor <;> rfl)
      (by constructor <;> simp) rfl rfl (herr (hm.context.crcPresent.symm.trans ‹_›))
  · exact ⟨rfl, hm⟩

/-- A PUT writes WREADY only after its last Inject (42_dequant_routing.md R140). -/
theorem emit_reports (i : SbIdx) (vs : List (Filter × F32))
    (herr : Raises u s .collaboratorError := by simp [Raises, possibleCauses]) :
    Reports u s (fun _ => True) (emit (UopCtx.fresh (encode u)) i vs m) := by
  have hinject : Reports u s (Underway u True s) (injectAll (UopCtx.fresh (encode u)) i vs m) := by
    induction vs generalizing m with
    | nil => exact ⟨rfl, hm⟩
    | cons v vs ih =>
      exact (filter_reports hm (x := .inject v.1 i v.2) nofun v.1 herr).bind fun _ _ _ ht => ih ht
  exact hinject.bind fun _ _ _ _ => ⟨rfl, trivial⟩

theorem getBits_reports (n : Nat) (hbits : Raises u s .bitstreamExhausted) :
    Reports u s (Underway u True s) (getBits (UopCtx.fresh (encode u)) n m) := by
  rw [getBits_fresh]
  rcases issueGetBits_cases (UopCtx.fresh (encode u)) n m with ⟨-, -, h⟩ | ⟨-, -, h⟩ | ⟨-, h⟩ <;> rw [h]
  · exact ⟨rfl, hm.tookBits n⟩
  · exact ⟨_, _, hbits, hm.foundExhausted n (by simp), rfl⟩
  · trivial

theorem getCode4_reports (hbits : Raises u s .bitstreamExhausted) :
    Reports u s (Underway u True s) (getCode4 (UopCtx.fresh (encode u)) m) :=
  (getBits_reports hm 4 hbits).bind fun _ _ _ ht => ⟨rfl, ht⟩

theorem allocOne_reports (i : SbIdx) (hbits : Raises u s .bitstreamExhausted := by simp [Raises, possibleCauses])
    (herr : s.crcPresent = true → Raises u s .collaboratorError := by intro h; simp [Raises, possibleCauses, h]) :
    Reports u s (Underway u True s) (allocOne (UopCtx.fresh (encode u)) i m) :=
  (getCode4_reports hm hbits).bind fun a _ _ h => (foldCode_reports h a herr).bind fun _ _ _ h =>
    ⟨rfl, h.setChan i _ _⟩

theorem allocTwo_reports (i : SbIdx) (hbits : Raises u s .bitstreamExhausted := by simp [Raises, possibleCauses])
    (herr : s.crcPresent = true → Raises u s .collaboratorError := by intro h; simp [Raises, possibleCauses, h]) :
    Reports u s (Underway u True s) (allocTwo (UopCtx.fresh (encode u)) i m) :=
  (getCode4_reports hm hbits).bind fun a0 _ _ h => (getCode4_reports h hbits).bind fun a1 _ _ h =>
  (foldCode_reports h a0 herr).bind fun _ _ _ h => (foldCode_reports h a1 herr).bind fun _ _ _ h =>
    ⟨rfl, (h.setChan i _ _).setChan i _ _⟩

theorem readScf_reports (i : SbIdx) (k : Ch) (hbits : Raises u s .bitstreamExhausted) :
    Reports u s (Underway u True s) (readScf (UopCtx.fresh (encode u)) i k m) :=
  (getBits_reports hm 6 hbits).bind fun _ _ _ h => ⟨rfl, h.setChan i k _⟩

theorem scfChannel_reports (i : SbIdx) (k : Ch)
    (hbits : Raises u s .bitstreamExhausted := by simp [Raises, possibleCauses]) :
    Reports u s (Underway u True s) (scfChannel (UopCtx.fresh (encode u)) i k m) := by
  unfold scfChannel
  split
  · exact readScf_reports hm i k hbits
  · exact ⟨rfl, hm⟩

theorem scfShared_reports (i : SbIdx) (hbits : Raises u s .bitstreamExhausted := by simp [Raises, possibleCauses]) :
    Reports u s (Underway u True s) (scfShared (UopCtx.fresh (encode u)) i m) := by
  unfold scfShared
  split
  · exact (readScf_reports hm i .c0 hbits).bind fun _ _ _ h => readScf_reports h i .c1 hbits
  · exact ⟨rfl, hm⟩

theorem sampleChannel_reports (i : SbIdx) (k : Ch) (hbits : Raises u s .bitstreamExhausted) :
    Reports u s (Underway u True s) (sampleChannel (UopCtx.fresh (encode u)) i k m) := by
  unfold sampleChannel
  split
  · exact (getBits_reports hm _ hbits).bind fun _ _ _ h => ⟨rfl, h.setChan i k _⟩
  · exact ⟨rfl, hm⟩

/-- SAMPLE.MONO and SAMPLE.IS write RREADY only after their one read (41_subband_ops.md R120, R123). -/
theorem sampleOne_reports (i : SbIdx) (hbits : Raises u s .bitstreamExhausted := by simp [Raises, possibleCauses]) :
    Reports u s (fun _ => True) (sampleOne (UopCtx.fresh (encode u)) i m) :=
  (sampleChannel_reports hm i .c0 hbits).bind fun _ _ _ _ => ⟨rfl, trivial⟩

end Parts

/-- SAMPLE.ST counts its sample before its second read, from the granule counter it began with
(41_subband_ops.md R121). -/
theorem sampleTwo_reports (i : SbIdx) (s : State) :
    Reports (.sampleSt i) s (Underway (.sampleSt i) True s)
      (sampleTwo (UopCtx.fresh (encode (.sampleSt i))) i s) := by
  have hbits : Raises (.sampleSt i) s .bitstreamExhausted := by simp [Raises, possibleCauses]
  refine (sampleChannel_reports (.refl _ _ s) i .c0 hbits).bind fun _ t ht h => ?_
  obtain ⟨x, -, hw⟩ := (Wrote.refl s i).sampleChannel ht
  have hg : (t.entry i).gcnt = (s.entry i).gcnt := by rw [hw.entry]; rfl
  exact sampleChannel_reports (h.granuleStep rfl hg) i .c1 hbits

/-! ## The uops -/

/-- A uop run whole that ends early has faulted on its way. -/
theorem uopBody_reports (u : Instr) (s : State) :
    Reports u s (fun _ => True) (uopBody u (UopCtx.fresh (encode u)) s) := by
  have start := Underway.refl u True s
  have ends {x : Flow Unit} (hx : Reports u s (Underway u True s) x) : Reports u s (fun _ => True) x :=
    hx.mono fun _ _ => trivial
  cases u with
  | createSbMono i => exact ⟨rfl, trivial⟩
  | createSbSt i => exact ⟨rfl, trivial⟩
  | createSbIs i => exact ⟨rfl, trivial⟩
  | allocMono i => exact checked_reports (ends (allocOne_reports start i))
  | allocSt i => exact checked_reports (ends (allocTwo_reports start i))
  | allocIs i => exact checked_reports (ends (allocOne_reports start i))
  | scfsiMono i => exact (checkEntry_reports i .mono s).mono fun _ _ => trivial
  | scfsiSt i => exact (checkEntry_reports i .st s).mono fun _ _ => trivial
  | scfsiIs i => exact (checkEntry_reports i .is s).mono fun _ _ => trivial
  | scfMono i => exact checked_reports (ends (scfChannel_reports start i .c0))
  | scfSt i =>
    exact checked_reports (f := fun c s => (scfChannel c i .c0 s).bind fun _ c t => scfChannel c i .c1 t)
      (ends ((scfChannel_reports start i .c0).bind fun _ _ _ h => scfChannel_reports h i .c1))
  | scfIs i => exact checked_reports (ends (scfShared_reports start i))
  | sampleMono i => exact checked_reports (sampleOne_reports start i)
  | sampleSt i => exact checked_reports (ends (sampleTwo_reports i s))
  | sampleIs i => exact checked_reports (sampleOne_reports start i)
  | putMono i => exact checked_reports (emit_reports start i _)
  | putSt i => exact checked_reports (emit_reports start i _)
  | putIs i => exact checked_reports (emit_reports start i _)
  | synthA => exact ends (filter_reports start (x := .synth .a) nofun .a)
  | synthB => exact ends (filter_reports start (x := .synth .b) nofun .b)
  | cfg crc sel => exact ⟨rfl, trivial⟩
  | decode => exact ⟨rfl, trivial⟩

/-- At most one entry, BITCNT and the flags were written from s to t. -/
def WroteEntry (s t : State) : Prop := ∃ i e k r w, Wrote s i e k r w t

/-- All that a uop that completes writes. -/
theorem wroteEntry_of_done {u : Instr} {c c' : UopCtx} {s t : State} (hu : u.port = .uopBus)
    (h : uopBody u c s = .done () c' t) : WroteEntry s t := by
  have created {v : Variant} {i : SbIdx} (h : uopBody (createSbInstr v i) c s = .done () c' t) : WroteEntry s t :=
    ⟨i, _, _, _, _, createSb_done h⟩
  have allocated {v : Variant} {i : SbIdx} (h : uopBody (allocInstr v i) c s = .done () c' t) : WroteEntry s t := by
    obtain ⟨a0, a1, hw⟩ := alloc_done h
    exact ⟨i, _, _, _, _, hw⟩
  have selected {v : Variant} {i : SbIdx} (h : uopBody (scfsiInstr v i) c s = .done () c' t) : WroteEntry s t := by
    rw [scfsi_done h]
    exact ⟨i, _, _, _, _, .refl s i⟩
  have scaled {v : Variant} {i : SbIdx} (h : uopBody (scfInstr v i) c s = .done () c' t) : WroteEntry s t := by
    obtain ⟨x, y, -, -, -, hw⟩ := scf_done h
    exact ⟨i, _, _, _, _, hw⟩
  have sampled {v : Variant} {i : SbIdx} (h : uopBody (sampleInstr v i) c s = .done () c' t) : WroteEntry s t := by
    obtain ⟨x, y, -, -, -, hw⟩ := sample_done h
    exact ⟨i, _, _, _, _, hw⟩
  have put {v : Variant} {i : SbIdx} (h : uopBody (putInstr v i) c s = .done () c' t) : WroteEntry s t :=
    ⟨i, _, _, _, _, put_done h⟩
  cases u with
  | createSbMono i => exact created (v := .mono) h
  | createSbSt i => exact created (v := .st) h
  | createSbIs i => exact created (v := .is) h
  | allocMono i => exact allocated (v := .mono) h
  | allocSt i => exact allocated (v := .st) h
  | allocIs i => exact allocated (v := .is) h
  | scfsiMono i => exact selected (v := .mono) h
  | scfsiSt i => exact selected (v := .st) h
  | scfsiIs i => exact selected (v := .is) h
  | scfMono i => exact scaled (v := .mono) h
  | scfSt i => exact scaled (v := .st) h
  | scfIs i => exact scaled (v := .is) h
  | sampleMono i => exact sampled (v := .mono) h
  | sampleSt i => exact sampled (v := .st) h
  | sampleIs i => exact sampled (v := .is) h
  | putMono i => exact put (v := .mono) h
  | putSt i => exact put (v := .st) h
  | putIs i => exact put (v := .is) h
  | synthA => exact ⟨0#5, _, _, _, _, synth_done h⟩
  | synthB => exact ⟨0#5, _, _, _, _, synth_done h⟩
  | cfg crc sel => cases hu
  | decode => cases hu

/-- Everything a uop run whole can leave: FSM and `outstanding` as they were; its fault; or s but for the ports, with
a transaction that never completes. -/
theorem exec_uop_cases {u : Instr} {s t : State} (hu : u.port = .uopBus) (h : exec u s = .next t) :
    (t.fsm = s.fsm ∧ t.outstanding = s.outstanding) ∨ FaultedFrom u s t ∨
    (∃ p x, t = { s.withPorts p with outstanding := some x }) := by
  rw [exec_uop u s hu, runUop_eq] at h
  cases h
  rcases Flow.settle_cases (uopBody u (UopCtx.fresh (encode u)) s) s with
    ⟨_, c, t, hx, h⟩ | ⟨t, hx, h⟩ | ⟨p, x, -, h⟩ | ⟨p, -, h⟩ <;> rw [h]
  · obtain ⟨i, e, k, r, w, hw⟩ := wroteEntry_of_done hu hx
    exact .inl ⟨hw.fsm, hw.outstanding⟩
  · have hr := uopBody_reports u s
    rw [hx] at hr
    exact .inr (.inl hr)
  · exact .inr (.inr ⟨p, x, rfl⟩)
  · exact .inl ⟨rfl, rfl⟩

/-- A uop run whole that takes the machine into ERROR has faulted on its way. -/
theorem faultedFrom_of_exec {u : Instr} {s t : State} (hu : u.port = .uopBus) (h : exec u s = .next t)
    (hs : s.fsm ≠ .error) (ht : t.fsm = .error) : FaultedFrom u s t := by
  rcases exec_uop_cases hu h with ⟨hf, -⟩ | h | ⟨p, x, rfl⟩
  · exact absurd (hf.symm.trans ht) hs
  · exact h
  · exact absurd ht hs

/-! ## The host commands -/

theorem exec_cfg_cases {crc : Bool} {sel : BitVec 2} {s t : State} (h : exec (.cfg crc sel) s = .next t) :
    t = s.cmdFault .illegalCmd (encode (.cfg crc sel)) ∨
    (∃ x, t = { s.clearFault with sel := x, crcPresent := crc, created := true, fsm := .idle }) := by
  simp only [exec, execCfg] at h
  split at h <;> cases h
  · exact .inl rfl
  · exact .inr ⟨_, rfl⟩

theorem exec_decode_cases {s t : State} (h : exec .decode s = .next t) :
    t = s.cmdFault .notCreated (encode .decode) ∨ t = s.startFrame ∨
    t = s.startFrame.cmdFault .configInvalid (encode .decode) := by
  simp only [exec, execDecode] at h
  split_ifs at h <;> cases h
  · exact .inl rfl
  · exact .inr (.inl rfl)
  · exact .inr (.inr rfl)

/-- Settles O41: a uop's fault is one of its parts', a command's is its own. -/
theorem operationsRaiseTheirCauses : Obligations.OperationsRaiseTheirCauses := by
  intro i s t h hs ht
  have uop (hu : i.port = .uopBus) : t.cause ∈ possibleCauses s.crcPresent i := by
    obtain ⟨m, x, hx, -, rfl⟩ := faultedFrom_of_exec hu h hs ht
    exact hx
  cases i with
  | cfg crc sel =>
    rcases exec_cfg_cases h with rfl | ⟨x, rfl⟩
    · simp [possibleCauses, State.cmdFault]
    · cases ht
  | decode =>
    rcases exec_decode_cases h with rfl | rfl | rfl
    · simp [possibleCauses, State.cmdFault]
    · cases ht
    · simp [possibleCauses, State.cmdFault]
  | _ => exact uop rfl

/-- Settles O42: fault entry writes its own registers, and the way there only what has completed. -/
theorem uopFaultRecordsAndKeeps : Obligations.UopFaultRecordsAndKeeps := by
  intro i s t hu h hs ht
  obtain ⟨m, x, -, ⟨hc, -, hout, hwready, hrready, hledger⟩, rfl⟩ := faultedFrom_of_exec hu h hs ht
  refine ⟨rfl, rfl, hc.seqG, hc.sel, hc.crcPresent, hc.created, hc.mode, hc.n, hc.b, hc.guard, hc.seqI, hc.seqPh,
    hc.seqG, hout, hwready, hledger, fun hne => ?_, ?_⟩
  · exact hrready.resolve_right fun ⟨j, hj, _⟩ => hne j hj
  · rintro j rfl
    refine hrready.imp_right ?_
    rintro ⟨_, ⟨⟩, hb⟩
    exact hb

end Sys2Proof.Proofs
end

section
/-! PROOFS. The ways out of the error state (spec/60_exceptions.md R206, R207): what an operation does that finds the
machine there. -/

namespace Sys2Proof.Proofs
open Sys2Proof Sys2Proof.Machine

/-- CAUSE and ERRINFO are cleared (60_exceptions.md R206). -/
def FaultCleared (t : State) : Prop := t.cause = .none ∧ t.errWord = 0#16 ∧ t.errSrc = .uop ∧ t.errGran = 0#4

/-- A word on the uop bus leads out of no error state, not even one of a uop that had begun. -/
theorem error_of_issueWord {d : Option Word} {w : Word} {s t : State} (hs : s.fsm = .error)
    (h : issueWord d w s = .next t) : t.fsm = .error := by
  cases hd : decodeUop w with
  | none =>
    rw [issueWord_illegal hd] at h
    cases h
    rfl
  | some u =>
    rw [issueWord_eq_partUop hd] at h
    cases h
    rcases partUop_cases d u s with ⟨c, t, hx, h⟩ | ⟨t, hx, h⟩ | ⟨x, p, h⟩ | ⟨f, p, h⟩ <;> rw [h]
    · obtain ⟨i, e, k, r, w, hw⟩ := wroteEntry_of_done (port_of_decodeUop hd) hx
      exact hw.fsm.trans hs
    · exact (fault_of_stop hx).1
    · exact hs
    · exact hs

theorem error_of_driveWord {w : Word} {s t : State} (hs : s.fsm = .error) (h : driveWord w s = .next t) :
    t.fsm = .error := by
  refine error_of_issueWord ?_ h
  split
  · exact hs
  · exact hs

/-- An accepted word that leaves no error is a legal CFG or DECODE (43_frame_sequencer.md R160, R161). -/
theorem acceptWord_not_error {w : Word} {s t : State} (h : acceptWord w s = .next t) (ht : t.fsm ≠ .error) :
    FaultCleared t ∧
      ((∃ crc sel, w = encode (.cfg crc sel) ∧ t.fsm = .idle) ∨ (w = encode .decode ∧ t.fsm = .init)) := by
  cases hd : decodeCmd w with
  | none =>
    rw [acceptWord, hd] at h
    cases h
    exact absurd rfl ht
  | some i =>
    have hw := (encode_of_decodeCmd hd).2.symm
    rw [acceptWord_legal hd] at h
    obtain ⟨crc, sel, rfl⟩ | rfl := decodeCmd_cases hd
    · rcases exec_cfg_cases h with rfl | ⟨x, rfl⟩
      · exact absurd rfl ht
      · exact ⟨⟨rfl, rfl, rfl, rfl⟩, .inl ⟨crc, sel, hw, rfl⟩⟩
    · rcases exec_decode_cases h with rfl | rfl | rfl
      · exact absurd rfl ht
      · exact ⟨⟨rfl, rfl, rfl, rfl⟩, .inr ⟨hw, rfl⟩⟩
      · exact absurd rfl ht

/-- Without RST, the way out of ERROR is an accepted word: every other way of a step ends there again. -/
theorem accepted_of_leaving {s t : State} (hs : s.fsm = .error) (hrst : s.pins.rst = false)
    (h : runSampled s = .next t) (ht : t.fsm ≠ .error) :
    ∃ w, s.pins.cmd = some w ∧ acceptWord w s.takeCmd = .next t := by
  by_cases ho : s.outstanding = none
  · cases hd : s.drivenWord with
    | some w =>
      rw [runSampled_driven hrst ho hd] at h
      exact absurd (error_of_driveWord hs h) ht
    | none =>
      rw [runSampled_acceptOrIdle hrst ho hd (nextUop_of_error hs)] at h
      cases hc : s.pins.cmd with
      | some w => exact ⟨w, rfl, (acceptOrIdle_some hc).symm.trans h⟩
      | none =>
        rw [acceptOrIdle_none hc] at h
        cases h
        exact absurd hs ht
  · rw [runSampled_outstanding hrst ho, waitOutstanding] at h
    split at h <;> cases h
    exact absurd hs ht

/-- Settles O43: reset clears everything, and without it a legal command was accepted. -/
theorem errorLeftOnlyByCommandOrReset : Obligations.ErrorLeftOnlyByCommandOrReset := by
  intro s t hs h ht
  rw [step] at h
  have hs : s.sampleInputs.fsm = .error := by rw [s.sampleInputs_eq]; exact hs
  cases hrst : s.sampleInputs.pins.rst with
  | true =>
    rw [runSampled, if_pos hrst] at h
    cases h
    exact ⟨⟨rfl, rfl, rfl, rfl⟩, .inl ⟨rfl, rfl⟩⟩
  | false =>
    obtain ⟨w, hc, h⟩ := accepted_of_leaving hs hrst h ht
    obtain ⟨hcleared, ⟨crc, sel, rfl, hf⟩ | ⟨rfl, hf⟩⟩ := acceptWord_not_error h ht
    · exact ⟨hcleared, .inr (.inl ⟨crc, sel, hc, hf⟩)⟩
    · exact ⟨hcleared, .inr (.inr ⟨hc, hf⟩)⟩

end Sys2Proof.Proofs
end

section
/-! PROOFS. A uop that has not ended (spec/60_exceptions.md R216; spec/70_reset_and_hazards.md R240, R257, R258;
spec/20_memory.md R68): it has changed the ports alone, and taken up again it ends as the whole uop. -/

namespace Sys2Proof.Proofs
open Sys2Proof Sys2Proof.Machine

/-! ## A transaction that never completes -/

/-- What an operation leaves outstanding is a uop's, and the uop has changed nothing but the ports. -/
theorem exec_outstanding {i : Instr} {s t : State} (h : exec i s = .next t) (hs : s.outstanding = none)
    (ht : t.outstanding ≠ none) :
    i.port = .uopBus ∧ ∃ p x, t = { s.withPorts p with outstanding := some x } := by
  have uop (hu : i.port = .uopBus) : ∃ p x, t = { s.withPorts p with outstanding := some x } := by
    rcases exec_uop_cases hu h with ⟨-, ho⟩ | ⟨m, x, -, hm, rfl⟩ | hang
    · exact absurd (ho.trans hs) ht
    · exact absurd (hm.outstanding.trans hs) ht
    · exact hang
  cases i with
  | cfg crc sel => rcases exec_cfg_cases h with rfl | ⟨x, rfl⟩ <;> exact absurd hs ht
  | decode => rcases exec_decode_cases h with rfl | rfl | rfl <;> exact absurd hs ht
  | _ => exact ⟨rfl, uop rfl⟩

/-! ## Between two transactions -/

/-- Under a grain of k + 1 transactions, a uop that stands has issued that many and has changed the ports alone. -/
theorem partUop_stands {s : State} {d : Option Word} {i : Instr} {k : Nat} {f : InFlight}
    (hk : s.budget = some k) (h : (s.partUop d i).inFlight = some f) :
    ∃ p new, uopBody i (s.uopCtx (encode i)) s = .pause p ∧ p.trace = s.trace ++ new ∧ new.length = k + 1 ∧
      s.latched.length + (k + 1) < 4 ∧
      s.partUop d i = { s.withPorts p with inFlight := some { driven := d, latched := s.latched ++ new } } := by
  have hspends : (uopBody i (s.uopCtx (encode i)) s).Spends 4 s.latched (k + 1) s := by
    rw [State.uopCtx, hk]
    exact (uopBody_parts i).spends (encode i) s.latched (k + 1) s
  unfold State.partUop at h ⊢
  cases hx : uopBody i (s.uopCtx (encode i)) s <;> rw [hx] at h hspends
  case pause p =>
    obtain ⟨new, hp, hlen, hmost⟩ := hspends
    refine ⟨p, new, rfl, hp, hlen, hmost, ?_⟩
    have hnew : (s.withPorts p).trace.drop s.trace.length = new := by
      rw [State.withPorts_trace, hp, List.drop_left]
    simp only [Flow.settle_pause, hnew]
  all_goals cases h

theorem mapState_withGrain {α : Type} (x : Flow α) (b b' : Option Nat) (f f' : Option InFlight) :
    (x.mapState (·.withGrain b f)).mapState (·.withGrain b' f') = x.mapState (·.withGrain b' f') := by
  cases x <;> rfl

/-- With what has completed latched, a uop's flow is that of the whole uop, the grain apart. -/
theorem uopBody_resumed {s p : State} {i : Instr} {k : Nat} {new : List Event} (hf : s.inFlight = none)
    (hp : uopBody i ({ s with budget := some k }.uopCtx (encode i)) { s with budget := some k } = .pause p)
    (ht : p.trace = s.trace ++ new) (f : Option InFlight) :
    uopBody i { word := encode i, replay := new, budget := none } ((s.withPorts p).withGrain none f) =
      (uopBody i (UopCtx.fresh (encode i)) s).mapState (·.withGrain none f) := by
  have hparts := uopBody_parts i
  have hctx : { s with budget := some k }.uopCtx (encode i) =
      { word := encode i, replay := [], budget := some (k + 1) } := by
    simp [State.uopCtx, State.latched, hf]
  rw [hctx] at hp
  have hstands := hparts.resumable (encode i) (k + 1) { s with budget := some k }
  rw [hp] at hstands
  obtain ⟨new', -, hnew', hresumed⟩ := hstands
  obtain rfl : new' = new := List.append_cancel_left (hnew'.symm.trans ht)
  calc uopBody i { word := encode i, replay := new', budget := none } ((s.withPorts p).withGrain none f)
      = (uopBody i { word := encode i, replay := new', budget := none }
          ({ s with budget := some k }.withPorts p)).mapState (·.withGrain none f) :=
        hparts.grainless none f _ ({ s with budget := some k }.withPorts p)
    _ = (uopBody i (UopCtx.fresh (encode i)) { s with budget := some k }).mapState (·.withGrain none f) := by
        rw [hresumed]
    _ = ((uopBody i (UopCtx.fresh (encode i)) s).mapState (·.withGrain (some k) s.inFlight)).mapState
          (·.withGrain none f) :=
        congrArg _ (hparts.grainless (some k) s.inFlight _ s)
    _ = (uopBody i (UopCtx.fresh (encode i)) s).mapState (·.withGrain none f) := mapState_withGrain _ _ _ _ _

/-- A flow that ends is settled alike whatever the ports and the grain it was taken up with. -/
theorem partUop_eq_settle {d : Option Word} {i : Instr} {s r : State} {b : Option Nat} {f : Option InFlight}
    {x : Flow Unit} (hx : x.Whole) (hr : ∃ p, r = (s.withPorts p).withGrain b f)
    (h : uopBody i (r.uopCtx (encode i)) r = x.mapState (·.withGrain b f)) (b' : Option Nat) :
    { r.partUop d i with budget := b' } = (x.settle s).withGrain b' none := by
  obtain ⟨p, rfl⟩ := hr
  unfold State.partUop
  rw [h]
  cases x with
  | done a c t => rfl
  | stop t => rfl
  | hang y t => rfl
  | pause t => exact hx.elim

/-- A uop that stands between two transactions, taken up again to its end, ends as the uop run whole. -/
theorem exec_eq_resumed {s p : State} (d : Option Word) {i : Instr} {k : Nat} {new : List Event}
    (hu : i.port = .uopBus) (hf : s.inFlight = none)
    (hp : uopBody i ({ s with budget := some k }.uopCtx (encode i)) { s with budget := some k } = .pause p)
    (ht : p.trace = s.trace ++ new) :
    exec i s = .next
      { ((s.withPorts p).withGrain none (some { driven := d, latched := new })).partUop d i with
        budget := s.budget } := by
  have hwhole := (uopBody_parts i).whole (UopCtx.fresh (encode i)) s rfl rfl
  have hkeeps := (uopBody_keeps i (UopCtx.fresh (encode i)) s).settle
  have hgrain : ∀ t : State, SameContext s t → t.withGrain s.budget none = t := by
    intro t ht
    rw [← ht.budget, ← hf, ← ht.inFlight]
    rfl
  have hresumed := uopBody_resumed hf hp ht (some { driven := d, latched := new })
  rw [partUop_eq_settle hwhole ⟨p, rfl⟩ hresumed s.budget, hgrain _ hkeeps, exec_uop i s hu, runUop_eq]

/-- Settles O44: a uop that waits or stands has changed the ports alone, and its shape says how it goes on. -/
theorem uncompletedTransactionRaisesNoFault : Obligations.UncompletedTransactionRaisesNoFault := by
  refine ⟨fun i s t h hs ht => ?_, fun i s m d k hu hf _ hm hne => ?_, fun i s d k f hf => ?_⟩
  · obtain ⟨hu, p, x, rfl⟩ := exec_outstanding h hs ht
    exact ⟨hu, rfl, rfl, rfl, rfl, rfl, rfl, rfl, rfl, rfl, rfl, rfl, rfl, afterUop_of_outstanding rfl,
      fun _ => rfl⟩
  · obtain ⟨f, hmf⟩ := Option.ne_none_iff_exists'.mp hne
    obtain ⟨p, new, hp, htrace, hlen, -, hstands⟩ := partUop_stands rfl (hm ▸ hmf)
    have hlatched : ({ s with budget := some k } : State).latched = [] := by simp [State.latched, hf]
    rw [hm, hlatched, List.nil_append] at hstands
    have hresumed := exec_eq_resumed d hu hf hp htrace
    subst hstands
    exact ⟨rfl, afterUop_of_inFlight rfl, fun _ => rfl, ⟨new, htrace, hlen, rfl⟩, hresumed⟩
  · obtain ⟨p, new, -, -, hlen, hmost, hstands⟩ := partUop_stands rfl hf
    rw [hstands] at hf
    cases hf
    rw [List.length_append, hlen]
    exact ⟨rfl, Nat.le_of_lt_succ hmost⟩

end Sys2Proof.Proofs
end

section
/-! PROOFS. Reset (spec/70_reset_and_hazards.md R240 to R242): what RST leaves of the collaborators and of the host's
signals, and that every register takes its reset value; the invariants hold there. -/

namespace Sys2Proof.Proofs
open Sys2Proof Sys2Proof.Machine

/-! ## What RST leaves -/

/-- Sampling can move the bit reader's cursor and nothing else of it (70_reset_and_hazards.md R252). -/
theorem br_sampleInputs (s : State) :
    s.sampleInputs.br = { s.br with cursor := s.sampleInputs.br.cursor } := by
  unfold State.sampleInputs
  cases s.inputs <;> rfl

theorem abandon_of_none {s : State} (ho : s.outstanding = none) : s.abandon = s := by
  simp [State.abandon, ho]

theorem abandon_trace_of_some {s : State} {x : Txn} (ho : s.outstanding = some x) :
    s.abandon.trace = s.trace ++ [{ txn := x, result := .abandoned }] := by
  simp [State.abandon, ho, State.record]

/-- Abandoning a transaction adds to the trace; of the collaborators only the bit reader's cursor is free then
(70_reset_and_hazards.md R240, log 3, log 15). -/
theorem abandon_eq (s : State) :
    s.abandon = { s with
      trace := s.abandon.trace, outstanding := none, freeCount := s.abandon.freeCount
      br := { s.br with cursor := s.abandon.br.cursor } } := by
  cases ho : s.outstanding with
  | none => rw [abandon_of_none ho, ← ho]
  | some x =>
    unfold State.abandon
    rw [ho]
    cases x <;> rfl

/-- RST gives the registers their reset values, and reaches no collaborator (70_reset_and_hazards.md R241, R242). -/
theorem applyReset_eq (s : State) :
    s.applyReset = { State.reset with
      pins := s.pins, inputs := s.inputs, budget := s.budget
      br := { s.br with cursor := s.abandon.br.cursor }, crc := s.crc, fa := s.fa, fb := s.fb
      trace := s.abandon.trace, params := s.params, freeCount := s.abandon.freeCount } := by
  unfold State.applyReset
  rw [abandon_eq]

/-- The entries after RST are those of the state after reset (70_reset_and_hazards.md R241). -/
theorem entry_applyReset (s : State) (i : SbIdx) : s.applyReset.entry i = SbEntry.atReset i :=
  (State.reset.entry_congr rfl i).trans (State.entry_reset i)

theorem regRead_of_rst {s : State} (h : s.pins.rst = true) (r : BitVec 3) : s.regRead r = none := by
  rw [State.regRead, if_pos h]

theorem cmdReady_of_rst {s : State} (h : s.pins.rst = true) : s.cmdReady = false := by
  simp [State.cmdReady, h]

/-- Settles O12: RST comes before everything else a step could do, and what it leaves stood before it. -/
theorem rstGivesResetRegisters : Obligations.RstGivesResetRegisters := by
  intro s hrst
  have hstep : step s = .next s.sampleInputs.applyReset := if_pos hrst
  have hreset := applyReset_eq s.sampleInputs
  have hsampled := s.sampleInputs_eq
  have hbr := br_sampleInputs s
  have hpins : s.sampleInputs.applyReset.pins.rst = true := by rw [hreset]; exact hrst
  refine ⟨_, hstep, rfl, rfl, rfl, rfl, rfl, rfl, rfl, rfl, rfl, rfl, rfl, rfl, rfl, rfl, rfl, rfl, rfl, rfl,
    fun i => ?_, rfl, rfl, regRead_of_rst hpins, cmdReady_of_rst hpins, ?_, ?_, ?_, ?_, ?_, ?_, fun ho => ?_,
    fun x ho => ?_⟩
  · rw [entry_applyReset]
    exact ⟨rfl, rfl⟩
  · rw [hreset, hbr]
  · rw [hreset, hbr]
  · rw [hreset, hsampled]
  · rw [hreset, hsampled]
  · rw [hreset, hsampled]
  · rw [hreset, hsampled]
  · have habandon : s.sampleInputs.abandon = s.sampleInputs := abandon_of_none (by rw [hsampled]; exact ho)
    rw [hreset, habandon]
    exact ⟨by rw [hsampled], rfl⟩
  · have htrace := abandon_trace_of_some (s := s.sampleInputs) (x := x) (by rw [hsampled]; exact ho)
    rw [hreset, htrace, hsampled]

/-- Settles O53: after reset IDX is each entry's own, and no frame is in progress or done. -/
theorem invariantsHoldAtReset : Obligations.InvariantsHoldAtReset := by
  refine ⟨fun i => ?_, fun hb => ?_, ?_⟩
  · rw [State.entry_reset]
    rfl
  · cases hb
  · rintro (⟨hb, -⟩ | hdone)
    · cases hb
    · cases hdone

end Sys2Proof.Proofs
end

section
/-! PROOFS. The header signals are latched at DECODE's acceptance, HDR_CKOK at the guard (spec/70_reset_and_hazards.md
R251): no uop reads them, and the guard is evaluated only where SEQ stands at the last SCFSI. -/

namespace Sys2Proof.Proofs
open Sys2Proof Sys2Proof.Machine

/-- A uop taken on by a step keeps the context, but for what it leaves latched. -/
theorem partUop_keeps (d : Option Word) (u : Instr) (s : State) :
    SameContext s { s.partUop d u with inFlight := s.inFlight } := by
  have hk := (uopBody_keeps u (s.uopCtx (encode u)) s).settle
  rcases partUop_cases d u s with ⟨c', t, hx, h⟩ | ⟨t, hx, h⟩ | ⟨x, p, h⟩ | ⟨f, p, h⟩ <;> rw [h]
  · rw [hx, Flow.settle_done] at hk
    rw [← hk.inFlight]
    exact hk
  · rw [hx, Flow.settle_stop] at hk
    rw [← hk.inFlight]
    exact hk
  · constructor <;> rfl
  · constructor <;> rfl

/-- Of FSM a uop writes only fault entry (60_exceptions.md R204). -/
theorem fsm_partUop {u : Instr} (hu : u.port = .uopBus) (d : Option Word) (s : State) :
    (s.partUop d u).fsm = s.fsm ∨ (s.partUop d u).fsm = .error := by
  rcases partUop_cases d u s with ⟨c', t, hx, h⟩ | ⟨t, hx, h⟩ | ⟨x, p, h⟩ | ⟨f, p, h⟩ <;> rw [h]
  · obtain ⟨i, e, k, r, w, hw⟩ := wroteEntry_of_done hu hx
    exact .inl hw.fsm
  · exact .inr (fault_of_stop hx).1
  · exact .inl rfl
  · exact .inl rfl

/-- Of the header signals the guard reads HDR_CKOK alone (43_frame_sequencer.md R168). -/
theorem guardEval_withHdr {s : State} {h : Header} (hck : h.ckok = s.pins.hdr.ckok) :
    (s.withHdr h).guardEval = s.guardEval := by
  simp only [State.guardEval, State.withHdr, hck]

/-- The guard is evaluated after the uop only where SEQ stood at the last subband of SCALESELECT before it. -/
theorem atGuard_of_partUop {u : Instr} {s : State} (hu : u.port = .uopBus)
    (hf : (s.partUop none u).fsm = .scaleSelect) (hl : (s.partUop none u).atLastSubband = true) :
    s.fsm = .scaleSelect ∧ s.atLastSubband = true := by
  obtain hfsm | herr := fsm_partUop hu none s
  · have hk := partUop_keeps none u s
    refine ⟨hfsm.symm.trans hf, ?_⟩
    rw [← hl]
    simp only [State.atLastSubband, ← hk.n, ← hk.seqI]
  · rw [herr] at hf
    cases hf

/-- Settles O57: the header is a signal that no uop reads, and the guard reads HDR_CKOK alone. -/
theorem headerChangeHasNoEffect : Obligations.HeaderChangeHasNoEffect := by
  intro s h hb hi hck
  refine step_withSignals (g := fun p => { p with hdr := h }) ⟨fun _ => rfl, fun _ => rfl, fun _ => rfl⟩ hb hi
    fun u hu => afterUop_withSignals _ _ fun hf hl => ?_
  have hckok := hck.resolve_right (not_not.mpr (atGuard_of_partUop (port_of_nextUop hu) hf hl))
  exact guardEval_withHdr (hckok.trans (by rw [← (partUop_keeps none u s).pins]))

end Sys2Proof.Proofs
end

section
/-! PROOFS. A frame whose collaborators complete every transaction ends (spec/70_reset_and_hazards.md R258): no uop is
left waiting, so every step takes one uop off the schedule, which has at most 920. -/

namespace Sys2Proof.Proofs
open Sys2Proof Sys2Proof.Machine

/-! ## Collaborators that complete every transaction -/

section Script
variable {ρ : Type} {P : ρ → Prop} {x : Script ρ} (h : P x.rest ∧ ∀ r ∈ x.queue, P r)
include h

/-- What holds of every completion of a script holds of the next one. -/
theorem script_next : P x.next := by
  obtain ⟨hrest, hqueue⟩ := h
  unfold Script.next
  cases hq : x.queue with
  | nil => exact hrest
  | cons r q => exact hqueue r (by simp [hq])

/-- What holds of every completion of a script holds of those after the next one. -/
theorem script_advance : P x.advance.rest ∧ ∀ r ∈ x.advance.queue, P r :=
  ⟨h.1, fun r hr => h.2 r (List.mem_of_mem_tail hr)⟩

end Script

theorem answers_next {x : Script BrReply} (h : x.Answers) : x.next = .answers :=
  script_next (P := (· = BrReply.answers)) h

theorem answers_advance {x : Script BrReply} (h : x.Answers) : x.advance.Answers :=
  script_advance (P := (· = BrReply.answers)) h

theorem completes_next {x : Script Reply} (h : x.Completes) : x.next ≠ .never :=
  script_next (P := (· ≠ Reply.never)) h

theorem completes_advance {x : Script Reply} (h : x.Completes) : x.advance.Completes :=
  script_advance (P := (· ≠ Reply.never)) h

/-- Nothing is outstanding, and every collaborator completes every transaction to come, with errors or not. -/
def Served (s : State) : Prop :=
  s.outstanding = none ∧ s.br.replies.Answers ∧ s.crc.Completes ∧ s.fa.Completes ∧ s.fb.Completes

section Served
variable {s : State} (h : Served s)
include h

theorem Served.outstanding : s.outstanding = none := h.1
theorem Served.replies : s.br.replies.Answers := h.2.1
theorem Served.crc : s.crc.Completes := h.2.2.1

theorem Served.filterScript (f : Filter) : (s.filterScript f).Completes := by
  obtain ⟨-, -, -, ha, hb⟩ := h
  cases f with
  | a => exact ha
  | b => exact hb

/-- After one more transaction on a port the collaborators still complete those to come. -/
theorem Served.answered : Served { s with br := s.br.answered } := by
  obtain ⟨ho, hr, hrest⟩ := h
  exact ⟨ho, answers_advance hr, hrest⟩

theorem Served.advanceCrc : Served { s with crc := s.crc.advance } := by
  obtain ⟨ho, hr, hc, hrest⟩ := h
  exact ⟨ho, hr, completes_advance hc, hrest⟩

theorem Served.advanceFilter (f : Filter) : Served (s.advanceFilter f) := by
  obtain ⟨ho, hr, hc, ha, hb⟩ := h
  cases f with
  | a => exact ⟨ho, hr, hc, completes_advance ha, hb⟩
  | b => exact ⟨ho, hr, hc, ha, completes_advance hb⟩

end Served

/-! ## No part of a uop is left waiting -/

/-- The flow does not end at a transaction that never completes, and the collaborators complete those to come. -/
def NeverHangs {α : Type} : Flow α → Prop
  | .done _ _ t => Served t
  | .stop t => Served t
  | .hang _ _ => False
  | .pause t => Served t

theorem NeverHangs.bind {α β : Type} {x : Flow α} {f : α → UopCtx → State → Flow β} (hx : NeverHangs x)
    (hf : ∀ a c t, Served t → NeverHangs (f a c t)) : NeverHangs (x.bind f) := by
  cases x with
  | done a c t => exact hf a c t hx
  | stop t => exact hx
  | hang x t => exact hx
  | pause t => exact hx

section Parts
variable {s : State} (h : Served s) (c : UopCtx)
include h

theorem getBits_neverHangs (n : Nat) : NeverHangs (getBits c n s) := by
  rcases getBits_cases c n s with ⟨v, c', -, hx⟩ | hx | ⟨c', -, hx⟩ <;> rw [hx]
  · exact h
  · exact h
  · rcases issueGetBits_cases c' n s with ⟨-, -, hx⟩ | ⟨-, -, hx⟩ | ⟨hr, -⟩
    · rw [hx]; exact h.answered
    · rw [hx]; exact h.answered
    · exact absurd ((answers_next h.replies).symm.trans hr) nofun

theorem transact_neverHangs (x : Txn) {r : Reply} {issued : State} (hr : r ≠ .never) (hi : Served issued) :
    NeverHangs (transact c x r s issued) := by
  rcases transact_cases c x r s issued with ⟨c', hx⟩ | hx | ⟨c', -, hx⟩ <;> rw [hx]
  · exact h
  · exact h
  · rcases complete_cases c' x r issued with ⟨-, hx⟩ | ⟨-, hx⟩ | ⟨hn, -⟩
    · rw [hx]; exact hi
    · rw [hx]; exact hi
    · exact absurd hn hr

theorem onFilter_neverHangs (x : Txn) (f : Filter) :
    NeverHangs (transact c x (s.filterScript f).next s (s.advanceFilter f)) :=
  transact_neverHangs h c x (completes_next (h.filterScript f)) (h.advanceFilter f)

theorem checkEntry_neverHangs (i : SbIdx) (v : Variant) : NeverHangs (checkEntry c i v s) := by
  rcases checkEntry_cases c i v s with ⟨-, -, hx⟩ | ⟨-, hx⟩ <;> rw [hx] <;> exact h

theorem getCode4_neverHangs : NeverHangs (getCode4 c s) :=
  (getBits_neverHangs h c 4).bind fun _ _ _ ht => ht

theorem foldCode_neverHangs (a : BitVec 4) : NeverHangs (foldCode c a s) := by
  unfold foldCode
  split
  · exact transact_neverHangs h c _ (completes_next h.crc) h.advanceCrc
  · exact h

theorem allocOne_neverHangs (i : SbIdx) : NeverHangs (allocOne c i s) :=
  (getCode4_neverHangs h c).bind fun a c _ ht => (foldCode_neverHangs ht c a).bind fun _ _ _ ht => ht

theorem allocTwo_neverHangs (i : SbIdx) : NeverHangs (allocTwo c i s) :=
  (getCode4_neverHangs h c).bind fun a0 c _ ht => (getCode4_neverHangs ht c).bind fun a1 c _ ht =>
    (foldCode_neverHangs ht c a0).bind fun _ c _ ht => (foldCode_neverHangs ht c a1).bind fun _ _ _ ht => ht

theorem readScf_neverHangs (i : SbIdx) (k : Ch) : NeverHangs (readScf c i k s) :=
  (getBits_neverHangs h c 6).bind fun _ _ _ ht => ht

theorem scfChannel_neverHangs (i : SbIdx) (k : Ch) : NeverHangs (scfChannel c i k s) := by
  unfold scfChannel
  split
  · exact readScf_neverHangs h c i k
  · exact h

theorem scfShared_neverHangs (i : SbIdx) : NeverHangs (scfShared c i s) := by
  unfold scfShared
  split
  · exact (readScf_neverHangs h c i .c0).bind fun _ c _ ht => readScf_neverHangs ht c i .c1
  · exact h

theorem sampleChannel_neverHangs (i : SbIdx) (k : Ch) : NeverHangs (sampleChannel c i k s) := by
  unfold sampleChannel
  split
  · exact (getBits_neverHangs h c _).bind fun _ _ _ ht => ht
  · exact h

theorem sampleOne_neverHangs (i : SbIdx) : NeverHangs (sampleOne c i s) :=
  (sampleChannel_neverHangs h c i .c0).bind fun _ _ _ ht => ht

theorem sampleTwo_neverHangs (i : SbIdx) : NeverHangs (sampleTwo c i s) :=
  (sampleChannel_neverHangs h c i .c0).bind fun _ c t ht =>
    sampleChannel_neverHangs (s := t.granuleStep i) ht c i .c1

theorem injectAll_neverHangs (i : SbIdx) (vs : List (Filter × F32)) : NeverHangs (injectAll c i vs s) := by
  induction vs generalizing c s with
  | nil => exact h
  | cons v vs ih => exact (onFilter_neverHangs h c (.inject v.1 i v.2) v.1).bind fun _ c _ ht => ih ht c

theorem emit_neverHangs (i : SbIdx) (vs : List (Filter × F32)) : NeverHangs (emit c i vs s) :=
  (injectAll_neverHangs h c i vs).bind fun _ _ _ ht => ht

/-- No uop is left waiting, run whole or in part. -/
theorem uopBody_neverHangs (u : Instr) : NeverHangs (uopBody u c s) := by
  have checked (i : SbIdx) (v : Variant) {f : UopCtx → State → Flow Unit}
      (hf : ∀ c t, Served t → NeverHangs (f c t)) : NeverHangs ((checkEntry c i v s).bind fun _ c t => f c t) :=
    (checkEntry_neverHangs h c i v).bind fun _ c t => hf c t
  cases u with
  | createSbMono i => exact h
  | createSbSt i => exact h
  | createSbIs i => exact h
  | allocMono i => exact checked i .mono fun c _ ht => allocOne_neverHangs ht c i
  | allocSt i => exact checked i .st fun c _ ht => allocTwo_neverHangs ht c i
  | allocIs i => exact checked i .is fun c _ ht => allocOne_neverHangs ht c i
  | scfsiMono i => exact checkEntry_neverHangs h c i .mono
  | scfsiSt i => exact checkEntry_neverHangs h c i .st
  | scfsiIs i => exact checkEntry_neverHangs h c i .is
  | scfMono i => exact checked i .mono fun c _ ht => scfChannel_neverHangs ht c i .c0
  | scfSt i =>
    exact checked i .st fun c _ ht =>
      (scfChannel_neverHangs ht c i .c0).bind fun _ c _ ht => scfChannel_neverHangs ht c i .c1
  | scfIs i => exact checked i .is fun c _ ht => scfShared_neverHangs ht c i
  | sampleMono i => exact checked i .mono fun c _ ht => sampleOne_neverHangs ht c i
  | sampleSt i => exact checked i .st fun c _ ht => sampleTwo_neverHangs ht c i
  | sampleIs i => exact checked i .is fun c _ ht => sampleOne_neverHangs ht c i
  | putMono i => exact checked i .mono fun c _ ht => emit_neverHangs ht c i _
  | putSt i => exact checked i .st fun c _ ht => emit_neverHangs ht c i _
  | putIs i => exact checked i .is fun c _ ht => emit_neverHangs ht c i _
  | synthA => exact onFilter_neverHangs h c (.synth .a) .a
  | synthB => exact onFilter_neverHangs h c (.synth .b) .b
  | cfg crc sel => exact h
  | decode => exact h

end Parts

/-! ## Steps and runs -/

theorem Served.partUop {s : State} (h : Served s) (d : Option Word) (u : Instr) : Served (s.partUop d u) := by
  have hx := uopBody_neverHangs h (s.uopCtx (encode u)) u
  unfold State.partUop
  cases hbody : uopBody u (s.uopCtx (encode u)) s <;> rw [hbody] at hx
  case done => exact hx
  case stop => exact hx
  case hang => exact hx.elim
  case pause t =>
    obtain ⟨-, hports⟩ := hx
    exact ⟨h.outstanding, hports⟩

theorem Served.afterUop {s : State} (h : Served s) : Served s.afterUop := by
  rcases afterUop_cases s with he | he <;> rw [he]
  · exact h
  · rw [advance_eq]; exact h

/-- With a silent host and collaborators that complete everything, no step is stuck (70_reset_and_hazards.md R258). -/
theorem served_step {g : Bool} {s : State} (hg : Undisturbed g s) (h : Served s) :
    ∃ t, step s = .next t ∧ Undisturbed g t ∧ Served t := by
  obtain ⟨hi, hrst, hcmd, huop, hbudget⟩ := hg.silent
  have hd : s.drivenWord = none := by rw [drivenWord_of_begun_none hg.begun, huop, ite_self]
  rw [step, State.sampleInputs_nil hi]
  cases hu : s.nextUop with
  | some u =>
    have hport := port_of_nextUop hu
    rw [runSampled_sequenced hrst h.outstanding hd hu, issueNext_eq hport]
    exact ⟨_, rfl, (hg.of_sameContext (sameContext_partUop hport hg.begun hbudget none)).afterUop,
      (h.partUop none u).afterUop⟩
  | none =>
    rw [runSampled_acceptOrIdle hrst h.outstanding hd hu, acceptOrIdle_none hcmd]
    exact ⟨s, rfl, hg, h⟩

theorem run_of_step {M : Host.Core} {k : Nat} {s m : M.State} (h : M.step s = .next m) :
    M.run (k + 1) s = M.run k m := by
  rw [Host.Core.run, h]

theorem served_run {g : Bool} (k : Nat) {s : State} (hg : Undisturbed g s) (h : Served s) :
    ∃ t, Sys2Proof.core.run k s = .next t ∧ Served t := by
  induction k generalizing s with
  | zero => exact ⟨s, rfl, h⟩
  | succ k ih =>
    obtain ⟨m, hm, hg, h⟩ := served_step hg h
    rw [run_of_step (M := Sys2Proof.core) hm]
    exact ih hg h

/-! ## The bound -/

/-- R258's bound: a frame of 32 subbands in stereo has 3 * 32 + 32 + 12 * (2 * 32 + 2) = 920 uops. -/
theorem length_frameSchedule_le {mode : ChMode} {n b : BitVec 6} (hv : frameValid mode n b = true)
    (filterB guard : Bool) : (frameSchedule mode b n.toNat filterB guard).length ≤ 920 := by
  have hn : n.toNat ≤ 32 := by
    simp only [frameValid, Bool.and_eq_true, decide_eq_true_eq] at hv
    exact hv.1.2
  rw [scheduleLength]
  have hB := Bool.toNat_le filterB
  cases guard with
  | true => simp only [Bool.toNat_true]; omega
  | false => simp only [Bool.toNat_false]; omega

/-- A frame with nothing left to come, nothing outstanding and no fault is done. -/
theorem Follows.ended {g : Bool} {s : State} (hs : Follows g [] s) (hg : Undisturbed g s)
    (ho : s.outstanding = none) : s.fsm = .done ∨ s.fsm = .error := by
  obtain he | ho' | hs := hs
  · exact .inr he
  · exact absurd ho ho'
  · exact .inl (hs.nil_of_done (not_busy_of_nextUop (hs.nextUop hg))).1

/-- After as many steps as uops were to come, the frame has ended. -/
theorem ends_after_schedule {g : Bool} {uops : List Instr} {s : State} (hg : Undisturbed g s)
    (hs : Follows g uops s) (h : Served s) :
    ∃ t, Sys2Proof.core.run uops.length s = .next t ∧ (t.fsm = .done ∨ t.fsm = .error) := by
  obtain ⟨t, hrun, ht⟩ := served_run uops.length hg h
  obtain ⟨hgt, hfollows⟩ := follows_run hg hs hrun
  rw [List.drop_length] at hfollows
  exact ⟨t, hrun, hfollows.ended hgt ht.outstanding⟩

/-- Settles O59: no step is stuck, so the frame runs through its whole schedule or ends in a fault. -/
theorem frameEndsWithin920Uops : Obligations.FrameEndsWithin920Uops := by
  intro s hsilent ho hf hv hbr hcrc hfa hfb
  have hstart : OnSchedule s.guardEval _ s.startFrame :=
    ⟨fun _ => frameRegs_startFrame hv, .inl rfl, scheduleRest_startFrame s.guardEval s⟩
  have hquiet : Undisturbed s.guardEval s.startFrame := ⟨hsilent, hf, rfl⟩
  obtain ⟨t, hrun, hend⟩ := ends_after_schedule hquiet (.inr (.inr hstart)) ⟨ho, hbr, hcrc, hfa, hfb⟩
  exact ⟨_, t, length_frameSchedule_le hv _ _, hrun, hend⟩

end Sys2Proof.Proofs
end
